-- ==== Sys2Proof/Word.lean ====
section
/-! DEFINITION. The word types of the CHIP-8 core: registers and memory cells are bytes, instruction words,
the index register and the program counter are 16 bits (00_scope.md rules R4, R8, R9: every value is unsigned). -/

namespace Sys2Proof

/-- A general register, a timer, a memory cell or a literal `kk`: 8 bits, unsigned (R4, R9). -/
abbrev Byte := BitVec 8

/-- An instruction word, `L`, `pc` or a stack entry: 16 bits, unsigned (R4). -/
abbrev Word := BitVec 16

/-- The literal address field `nnn` of an instruction: 12 bits (R91). -/
abbrev Addr := BitVec 12

/-- The index of a general register, `V0` to `VF` (R20). -/
abbrev Reg := Fin 16

/-- The index of a key of the keypad, 0 to F (R36). -/
abbrev Key := Fin 16

/-- The row count `n` of a draw, 0 to 15 (R91, R93). -/
abbrev Count := Fin 16

end Sys2Proof
end

