-- ==== Sys2Proof/Syntax.lean ====
section
/-! DEFINITION. The instructions: one constructor for each of the 34 rows of spec/opcode_table.json
(30_encoding.md rule R95), carrying the operand fields its pattern has (R91, R92). -/

namespace Sys2Proof

/-- The closed list of instructions (R95). `x` and `y` are register indices, `kk` a literal byte, `nnn` a literal
address, `n` a row count. `sys` keeps its ignored `nnn`, and `shr` and `shl` keep their ignored `y` (R98), so that
an instruction and its word determine each other. -/
inductive Instr where
  /-- `00E0` CLS: clear the display (R210). -/
  | cls
  /-- `00EE` RET: return from subroutine (R152). -/
  | ret
  /-- `0nnn` SYS nnn: the ignored machine-code call (R151). -/
  | sys (nnn : Addr)
  /-- `1nnn` JP nnn: jump absolute (R153). -/
  | jp (nnn : Addr)
  /-- `2nnn` CALL nnn: call subroutine (R154). -/
  | call (nnn : Addr)
  /-- `3xkk` SE Vx, kk: skip if equal to literal (R155). -/
  | seImm (x : Reg) (kk : Byte)
  /-- `4xkk` SNE Vx, kk: skip if not equal to literal (R156). -/
  | sneImm (x : Reg) (kk : Byte)
  /-- `5xy0` SE Vx, Vy: skip if registers equal (R157). -/
  | seReg (x y : Reg)
  /-- `6xkk` LD Vx, kk: load literal (R170). -/
  | ldImm (x : Reg) (kk : Byte)
  /-- `7xkk` ADD Vx, kk: add literal (R171). -/
  | addImm (x : Reg) (kk : Byte)
  /-- `8xy0` LD Vx, Vy: register copy (R172). -/
  | ldReg (x y : Reg)
  /-- `8xy1` OR Vx, Vy (R173). -/
  | orReg (x y : Reg)
  /-- `8xy2` AND Vx, Vy (R174). -/
  | andReg (x y : Reg)
  /-- `8xy3` XOR Vx, Vy (R175). -/
  | xorReg (x y : Reg)
  /-- `8xy4` ADD Vx, Vy: add with carry out (R176). -/
  | addReg (x y : Reg)
  /-- `8xy5` SUB Vx, Vy: Vx minus Vy (R177). -/
  | sub (x y : Reg)
  /-- `8xy6` SHR Vx: logical shift right by one (R178); `y` is encoded and ignored. -/
  | shr (x y : Reg)
  /-- `8xy7` SUBN Vx, Vy: Vy minus Vx (R179). -/
  | subn (x y : Reg)
  /-- `8xyE` SHL Vx: logical shift left by one (R180); `y` is encoded and ignored. -/
  | shl (x y : Reg)
  /-- `9xy0` SNE Vx, Vy: skip if registers not equal (R158). -/
  | sneReg (x y : Reg)
  /-- `Annn` LD L, nnn: set the index register (R190). -/
  | ldL (nnn : Addr)
  /-- `Bnnn` JP V0, nnn: jump absolute offset by V0 (R159). -/
  | jpV0 (nnn : Addr)
  /-- `Cxkk` RND Vx, kk: random AND literal (R181). -/
  | rnd (x : Reg) (kk : Byte)
  /-- `Dxyn` DRW Vx, Vy, n: draw a sprite (R211). -/
  | drw (x y : Reg) (n : Count)
  /-- `Ex9E` SKP Vx: skip if key pressed (R160). -/
  | skp (x : Reg)
  /-- `ExA1` SKNP Vx: skip if key not pressed (R161). -/
  | sknp (x : Reg)
  /-- `Fx07` LD Vx, DT: copy delay timer to register (R200). -/
  | ldVxDt (x : Reg)
  /-- `Fx0A` LD Vx, K: wait for a key press (R201). -/
  | ldVxK (x : Reg)
  /-- `Fx15` LD DT, Vx: copy register to delay timer (R202). -/
  | ldDtVx (x : Reg)
  /-- `Fx18` LD ST, Vx: copy register to sound timer (R203). -/
  | ldStVx (x : Reg)
  /-- `Fx1E` ADD L, Vx: add register to index register (R191). -/
  | addLVx (x : Reg)
  /-- `Fx29` LD F, Vx: index register to the font glyph of a digit (R192). -/
  | ldFVx (x : Reg)
  /-- `Fx55` LD [L], Vx: bulk register dump to memory (R193). -/
  | ldMemVx (x : Reg)
  /-- `Fx65` LD Vx, [L]: bulk register load from memory (R194). -/
  | ldVxMem (x : Reg)
  deriving DecidableEq, Repr

end Sys2Proof
end

