-- ==== Sys2Proof/Decode.lean ====
section
/-! DEFINITION. Decoding (30_encoding.md rules R90, R91, R94), total over every sequence of bytes and rejecting by
name, and after it the encoder, written from the patterns of R95, and the rows of the opcode table themselves.
The bit patterns are the spec's standard CHIP-8 encoding (log entry 3). -/

namespace Sys2Proof

/-- Why a sequence of bytes gives no instruction. -/
inductive Reject where
  /-- the word matches no row of the opcode table: the spec's `Unrecognized` (R94, R97) -/
  | unrecognized
  /-- fewer than the two bytes of an instruction are there (R90); the machine never decodes such a sequence -/
  | truncated
  deriving DecidableEq, Repr

/-- `op = w[15:12]`, the class of the word (R91). -/
def fieldOp (w : Word) : Nat := (w.extractLsb' 12 4).toNat

/-- `x = w[11:8]`, the first register index (R91). -/
def fieldX (w : Word) : Reg := ⟨(w.extractLsb' 8 4).toNat, (w.extractLsb' 8 4).isLt⟩

/-- `y = w[7:4]`, the second register index (R91). -/
def fieldY (w : Word) : Reg := ⟨(w.extractLsb' 4 4).toNat, (w.extractLsb' 4 4).isLt⟩

/-- `n = w[3:0]`, a minor opcode or the row count (R91). -/
def fieldN (w : Word) : Count := ⟨(w.extractLsb' 0 4).toNat, (w.extractLsb' 0 4).isLt⟩

/-- `kk = w[7:0]`, the literal byte (R91). -/
def fieldKk (w : Word) : Byte := w.extractLsb' 0 8

/-- `nnn = w[11:0]`, the literal address (R91). -/
def fieldNnn (w : Word) : Addr := w.extractLsb' 0 12

/-- Class 0: the two fixed words, and SYS for every other word (R94, R96). -/
def decodeClass0 (w : Word) : Except Reject Instr :=
  if w = 0x00E0#16 then .ok .cls
  else if w = 0x00EE#16 then .ok .ret
  else .ok (.sys (fieldNnn w))

/-- Class 8: the minor opcode is `n`, strictly matched (R94, R97). -/
def decodeClass8 (w : Word) : Except Reject Instr :=
  let x := fieldX w
  let y := fieldY w
  match (fieldN w).val with
  | 0x0 => .ok (.ldReg x y)
  | 0x1 => .ok (.orReg x y)
  | 0x2 => .ok (.andReg x y)
  | 0x3 => .ok (.xorReg x y)
  | 0x4 => .ok (.addReg x y)
  | 0x5 => .ok (.sub x y)
  | 0x6 => .ok (.shr x y)
  | 0x7 => .ok (.subn x y)
  | 0xE => .ok (.shl x y)
  | _ => .error .unrecognized

/-- Class E: the minor opcode is `kk` (R94). -/
def decodeClassE (w : Word) : Except Reject Instr :=
  match (fieldKk w).toNat with
  | 0x9E => .ok (.skp (fieldX w))
  | 0xA1 => .ok (.sknp (fieldX w))
  | _ => .error .unrecognized

/-- Class F: the minor opcode is `kk` (R94). -/
def decodeClassF (w : Word) : Except Reject Instr :=
  let x := fieldX w
  match (fieldKk w).toNat with
  | 0x07 => .ok (.ldVxDt x)
  | 0x0A => .ok (.ldVxK x)
  | 0x15 => .ok (.ldDtVx x)
  | 0x18 => .ok (.ldStVx x)
  | 0x1E => .ok (.addLVx x)
  | 0x29 => .ok (.ldFVx x)
  | 0x55 => .ok (.ldMemVx x)
  | 0x65 => .ok (.ldVxMem x)
  | _ => .error .unrecognized

/-- The decode function `dec(w)` (R94). It reads nothing but the word (R99). The last arm is never taken, since
the class is a field of four bits. -/
def decodeWord (w : Word) : Except Reject Instr :=
  match fieldOp w with
  | 0x0 => decodeClass0 w
  | 0x1 => .ok (.jp (fieldNnn w))
  | 0x2 => .ok (.call (fieldNnn w))
  | 0x3 => .ok (.seImm (fieldX w) (fieldKk w))
  | 0x4 => .ok (.sneImm (fieldX w) (fieldKk w))
  | 0x5 => if (fieldN w).val = 0 then .ok (.seReg (fieldX w) (fieldY w)) else .error .unrecognized
  | 0x6 => .ok (.ldImm (fieldX w) (fieldKk w))
  | 0x7 => .ok (.addImm (fieldX w) (fieldKk w))
  | 0x8 => decodeClass8 w
  | 0x9 => if (fieldN w).val = 0 then .ok (.sneReg (fieldX w) (fieldY w)) else .error .unrecognized
  | 0xA => .ok (.ldL (fieldNnn w))
  | 0xB => .ok (.jpV0 (fieldNnn w))
  | 0xC => .ok (.rnd (fieldX w) (fieldKk w))
  | 0xD => .ok (.drw (fieldX w) (fieldY w) (fieldN w))
  | 0xE => decodeClassE w
  | 0xF => decodeClassF w
  | _ => .error .unrecognized

/-- The instruction word of two bytes, the byte at the lower address being `w[15:8]` (R8, R66). -/
def wordOfBytes (hi lo : Byte) : Word := BitVec.ofNat 16 (hi.toNat * 0x100 + lo.toNat)

/-- `w[15:8]`, the byte of a word that stands at the lower address (R66). -/
def highByte (w : Word) : Byte := BitVec.ofNat 8 (w.toNat / 0x100)

/-- `w[7:0]`, the byte of a word that stands at the higher address (R66). -/
def lowByte (w : Word) : Byte := BitVec.ofNat 8 w.toNat

/-- Decode the instruction at the front of a sequence of bytes, and return the bytes after it. -/
def decode : List Byte → Except Reject (Instr × List Byte)
  | hi :: lo :: rest =>
    match decodeWord (wordOfBytes hi lo) with
    | .ok i => .ok (i, rest)
    | .error e => .error e
  | _ => .error .truncated

/-- The instruction that the decoder reads from a word numbered as the opcode table numbers it. The table's rows
are one 16-bit word each, stored with its high byte first (R66). -/
def decodeTableWord (nbits w : Nat) : Option Instr :=
  let word : Word := BitVec.ofNat 16 (w % 2 ^ nbits)
  match decode [highByte word, lowByte word] with
  | .ok (i, _) => some i
  | .error _ => none

/-! ### The encoder -/

/-- Format NNN: `op | nnn` (R92). -/
def packNnn (op : Nat) (nnn : Addr) : Word := BitVec.ofNat 16 (op * 0x1000 + nnn.toNat)

/-- Formats XKK and XFN: `op | x | kk` (R92). -/
def packXkk (op : Nat) (x : Reg) (kk : Byte) : Word :=
  BitVec.ofNat 16 (op * 0x1000 + x.val * 0x100 + kk.toNat)

/-- Formats XY and XYN: `op | x | y | n` (R92). -/
def packXyn (op : Nat) (x y : Reg) (n : Count) : Word :=
  BitVec.ofNat 16 (op * 0x1000 + x.val * 0x100 + y.val * 0x10 + n.val)

/-- The word of an instruction, by the pattern column of R95. -/
def encode : Instr → Word
  | .cls => 0x00E0#16
  | .ret => 0x00EE#16
  | .sys nnn => packNnn 0x0 nnn
  | .jp nnn => packNnn 0x1 nnn
  | .call nnn => packNnn 0x2 nnn
  | .seImm x kk => packXkk 0x3 x kk
  | .sneImm x kk => packXkk 0x4 x kk
  | .seReg x y => packXyn 0x5 x y 0x0
  | .ldImm x kk => packXkk 0x6 x kk
  | .addImm x kk => packXkk 0x7 x kk
  | .ldReg x y => packXyn 0x8 x y 0x0
  | .orReg x y => packXyn 0x8 x y 0x1
  | .andReg x y => packXyn 0x8 x y 0x2
  | .xorReg x y => packXyn 0x8 x y 0x3
  | .addReg x y => packXyn 0x8 x y 0x4
  | .sub x y => packXyn 0x8 x y 0x5
  | .shr x y => packXyn 0x8 x y 0x6
  | .subn x y => packXyn 0x8 x y 0x7
  | .shl x y => packXyn 0x8 x y 0xE
  | .sneReg x y => packXyn 0x9 x y 0x0
  | .ldL nnn => packNnn 0xA nnn
  | .jpV0 nnn => packNnn 0xB nnn
  | .rnd x kk => packXkk 0xC x kk
  | .drw x y n => packXyn 0xD x y n
  | .skp x => packXkk 0xE x 0x9E#8
  | .sknp x => packXkk 0xE x 0xA1#8
  | .ldVxDt x => packXkk 0xF x 0x07#8
  | .ldVxK x => packXkk 0xF x 0x0A#8
  | .ldDtVx x => packXkk 0xF x 0x15#8
  | .ldStVx x => packXkk 0xF x 0x18#8
  | .addLVx x => packXkk 0xF x 0x1E#8
  | .ldFVx x => packXkk 0xF x 0x29#8
  | .ldMemVx x => packXkk 0xF x 0x55#8
  | .ldVxMem x => packXkk 0xF x 0x65#8

/-- The two bytes of an instruction in memory order, high byte first (R66, R100). -/
def encodeBytes (i : Instr) : List Byte := [highByte (encode i), lowByte (encode i)]

/-! ### The rows of the opcode table -/

/-- One row of the opcode table: a word `w` fits it when `w & mask = match` and `w` is not excluded. -/
structure OpcodeRow where
  mask : Word
  pattern : Word
  exclude : List Word
  deriving DecidableEq, Repr

/-- A word fits a row. -/
def OpcodeRow.fits (r : OpcodeRow) (w : Word) : Bool :=
  w &&& r.mask == r.pattern && !r.exclude.contains w

/-- The row of each instruction: the `mask`, `match` and `exclude` columns of the opcode table (R95). -/
def Instr.row : Instr → OpcodeRow
  | .cls => ⟨0xFFFF, 0x00E0, []⟩
  | .ret => ⟨0xFFFF, 0x00EE, []⟩
  | .sys _ => ⟨0xF000, 0x0000, [0x00E0, 0x00EE]⟩
  | .jp _ => ⟨0xF000, 0x1000, []⟩
  | .call _ => ⟨0xF000, 0x2000, []⟩
  | .seImm _ _ => ⟨0xF000, 0x3000, []⟩
  | .sneImm _ _ => ⟨0xF000, 0x4000, []⟩
  | .seReg _ _ => ⟨0xF00F, 0x5000, []⟩
  | .ldImm _ _ => ⟨0xF000, 0x6000, []⟩
  | .addImm _ _ => ⟨0xF000, 0x7000, []⟩
  | .ldReg _ _ => ⟨0xF00F, 0x8000, []⟩
  | .orReg _ _ => ⟨0xF00F, 0x8001, []⟩
  | .andReg _ _ => ⟨0xF00F, 0x8002, []⟩
  | .xorReg _ _ => ⟨0xF00F, 0x8003, []⟩
  | .addReg _ _ => ⟨0xF00F, 0x8004, []⟩
  | .sub _ _ => ⟨0xF00F, 0x8005, []⟩
  | .shr _ _ => ⟨0xF00F, 0x8006, []⟩
  | .subn _ _ => ⟨0xF00F, 0x8007, []⟩
  | .shl _ _ => ⟨0xF00F, 0x800E, []⟩
  | .sneReg _ _ => ⟨0xF00F, 0x9000, []⟩
  | .ldL _ => ⟨0xF000, 0xA000, []⟩
  | .jpV0 _ => ⟨0xF000, 0xB000, []⟩
  | .rnd _ _ => ⟨0xF000, 0xC000, []⟩
  | .drw _ _ _ => ⟨0xF000, 0xD000, []⟩
  | .skp _ => ⟨0xF0FF, 0xE09E, []⟩
  | .sknp _ => ⟨0xF0FF, 0xE0A1, []⟩
  | .ldVxDt _ => ⟨0xF0FF, 0xF007, []⟩
  | .ldVxK _ => ⟨0xF0FF, 0xF00A, []⟩
  | .ldDtVx _ => ⟨0xF0FF, 0xF015, []⟩
  | .ldStVx _ => ⟨0xF0FF, 0xF018, []⟩
  | .addLVx _ => ⟨0xF0FF, 0xF01E, []⟩
  | .ldFVx _ => ⟨0xF0FF, 0xF029, []⟩
  | .ldMemVx _ => ⟨0xF0FF, 0xF055, []⟩
  | .ldVxMem _ => ⟨0xF0FF, 0xF065, []⟩

end Sys2Proof
end

