-- ==== Sys2Proof/Config.lean ====
section
/-! DEFINITION. What is fixed for this machine (00_scope.md rules R4 and R5) and the free values: the two input
ports, whose value in a frame no rule of the spec fixes (10_state.md rule R36, 00_scope.md rule R6). -/

namespace Sys2Proof

/-- `MEM_SIZE`, the number of bytes of memory (R4). -/
abbrev Config.memSize : Nat := 4096

/-- `PROG_BASE`, the load address of the ROM image and the entry point (R4, R261). -/
abbrev Config.progBase : Nat := 0x200

/-- `PROG_MAX`, the length of the longest ROM image that reset accepts (R5, R263). -/
abbrev Config.progMax : Nat := 3584

/-- `FONT_GLYPH_BYTES`, the bytes of one font glyph (R4, R62). -/
abbrev Config.glyphBytes : Nat := 5

/-- The value of the input port `keys_in` in the frame with the given number, when the state names no input for
it: a free value, under no law (R36, "the hardware accepts any value"; log entry 1). -/
opaque Config.keysIn : Nat → BitVec 16

/-- The value of the input port `rnd_in` in the frame with the given number, when the state names no input for
it: a free value, under no law (R36, R181; log entry 1). -/
opaque Config.rndIn : Nat → Byte

end Sys2Proof
end

