-- ==== Sys2Proof/Machine/State.lean ====
section
/-! DEFINITION. The whole state of the core (10_state.md: the state tuple at its head, rules R20 to R40), as plain
data, and the state after reset (R45, R260). Beside the spec's tuple stand three fields of the model's own: the
environment's inputs, the frame number and the output ports of the last frame (log entries 1 and 2). -/

namespace Sys2Proof.Machine

/-- Memory: the cells that differ from the reset content, in canonical form (`Memory.wf`), by address. -/
abbrev Memory := List Host.Cell

/-- The display buffer: 32 rows of 64 one-bit pixels, `disp[r][c]` (R35). -/
abbrev Display := Vector (Vector Bool 64) 32

/-- The three values of `run_state` (R30). -/
inductive RunState where
  /-- fetch and execute proceed -/
  | normal
  /-- execution is suspended until a key press is observed; register `t` then receives the key -/
  | waitingForKey (t : Reg)
  /-- the machine has stopped on an error; only reset leaves this state -/
  | halted
  deriving DecidableEq, Repr

/-- What `halt_cause` may hold (R230). -/
inductive HaltCause where
  /-- code 0: the machine has not halted -/
  | none
  /-- code 1: decode of an unrecognized word (R231) -/
  | unrecognizedOpcode
  /-- code 2: fetch, dump, load or draw beyond the address space (R232) -/
  | outOfRangeAccess
  /-- code 3: RET with an empty call stack (R233) -/
  | emptyCallStackReturn
  /-- code 4: fetch at an odd address (R234) -/
  | misalignedFetch
  /-- code 5: CALL with a full call stack (R235) -/
  | stackOverflow
  deriving DecidableEq, Repr

/-- The kind of a reported pixel transition (R37, R213). -/
inductive TransitionKind where
  /-- the pixel became set -/
  | drawn
  /-- the pixel became unset -/
  | erased
  deriving DecidableEq, Repr

/-- One triple of the `transitions` output: column `x`, row `y`, and what happened there (R37). -/
structure Transition where
  x : Fin 64
  y : Fin 32
  kind : TransitionKind
  deriving DecidableEq, Repr

/-- The outputs of a frame that are not read off the state itself (R37): `beep`, `display_clear`, `transitions`.
The other outputs, `halted` and the halt record, are functions of `runState` and of the halt record below. -/
structure Outputs where
  beep : Bool
  displayClear : Bool
  transitions : List Transition
  deriving DecidableEq, Repr

/-- The inputs of one frame (R36): `keys_in`, one bit for each key, and `rnd_in`. -/
structure FrameInput where
  keys : BitVec 16
  rnd : Byte
  deriving DecidableEq, Repr

/-- The state of the core. -/
structure State where
  /-- the general registers `V0` to `VF`; `V[15]` is also the flag (R20, R21, R28) -/
  v : Vector Byte 16
  /-- the index register `L` (R29) -/
  l : Word
  /-- the program counter (R24) -/
  pc : Word
  /-- the depth of the call stack, 0 to 16 (R31) -/
  sp : Fin 17
  /-- the sixteen entries of the call stack; those below `sp` are live (R31) -/
  stack : Vector Word 16
  /-- the delay timer (R32) -/
  dt : Byte
  /-- the sound timer (R32) -/
  st : Byte
  /-- the run-state (R30) -/
  runState : RunState
  /-- `halt_cause` of the halt record (R33) -/
  haltCause : HaltCause
  /-- `halt_word` of the halt record (R33) -/
  haltWord : Word
  /-- `halt_addr` of the halt record (R33) -/
  haltAddr : Word
  /-- main memory, 4096 bytes (R35, R60) -/
  mem : Memory
  /-- the display buffer (R35) -/
  disp : Display
  /-- the keys pressed in this frame (R39) -/
  keypad : Vector Bool 16
  /-- the model's own: the inputs that the environment presents in this frame and the following ones, as far as
  they are named; every frame uses one (log entry 1) -/
  inputs : List FrameInput
  /-- the model's own: the number of frames so far, which the free inputs of `Config` are applied to (log entry 1) -/
  frame : Nat
  /-- the output ports as the last frame left them (R37, log entry 2) -/
  out : Outputs
  deriving DecidableEq, Repr

/-- The reasons for a step to stop outside the machine's own halt. There is none: every error the spec names is an
exception whose effect is the state `Halted` (R238), so it is a next state. Safe: with no constructor, no step can
end in a fault. -/
inductive Fault where
  deriving DecidableEq, Repr

/-- The reasons for a refusal. -/
inductive Refusal where
  /-- raised by `exec` for an instruction that has no meaning yet; no arm raises it in this model. Safe: the model
  stops where the hardware goes on. -/
  | notModelled (mnemonic : String)
  /-- raised by reset alone, for a ROM image longer than 3584 bytes: "no machine state is produced" (R263). Safe:
  the spec itself refuses. -/
  | romTooLong
  deriving DecidableEq, Repr

/-- The outputs of a frame that reports nothing (R121, R122). -/
def Outputs.quiet : Outputs := ⟨false, false, []⟩

/-- A display with every pixel unset (R45, R210). -/
def Display.clear : Display := Vector.replicate 32 (Vector.replicate 64 false)

/-- A keypad with no key pressed (R39, R131). -/
def noKeys : Vector Bool 16 := Vector.replicate 16 false

/-- The machine right after reset with an empty ROM image (R45, R260). Memory lists nothing, so that every byte has
its reset content. The stack entries, which the spec leaves unspecified, are zero (log entry 11). -/
def State.reset : State where
  v := Vector.replicate 16 0#8
  l := 0x0000#16
  pc := 0x0200#16
  sp := 0
  stack := Vector.replicate 16 0#16
  dt := 0#8
  st := 0#8
  runState := .normal
  haltCause := .none
  haltWord := 0x0000#16
  haltAddr := 0x0000#16
  mem := []
  disp := Display.clear
  keypad := noKeys
  inputs := []
  frame := 0
  out := Outputs.quiet

end Sys2Proof.Machine
end

