-- ==== Sys2Proof/Machine/Ops.lean ====
section
/-! DEFINITION. The named operations over memory, registers, the program counter and the call stack, taking an
exception, and reset with a ROM image. Each says once what the rules of 10_state.md, 20_memory.md, 60_exceptions.md
and 70_reset_and_hazards.md say of it. -/

namespace Sys2Proof.Machine

/-! ### What memory holds at reset -/

/-- The font table: the five bytes of glyph 0, then those of glyph 1, and so on to glyph F (R62, log entry 6). -/
def fontTable : List Byte :=
  [0xF0, 0x90, 0x90, 0x90, 0xF0] ++ [0x20, 0x60, 0x20, 0x20, 0x70] ++
  [0xF0, 0x10, 0xF0, 0x80, 0xF0] ++ [0xF0, 0x10, 0xF0, 0x10, 0xF0] ++
  [0x90, 0x90, 0xF0, 0x10, 0x10] ++ [0xF0, 0x80, 0xF0, 0x10, 0xF0] ++
  [0xF0, 0x80, 0xF0, 0x90, 0xF0] ++ [0xF0, 0x10, 0x20, 0x40, 0x40] ++
  [0xF0, 0x90, 0xF0, 0x90, 0xF0] ++ [0xF0, 0x90, 0xF0, 0x10, 0xF0] ++
  [0xF0, 0x90, 0xF0, 0x90, 0x90] ++ [0xE0, 0x90, 0xE0, 0x90, 0xE0] ++
  [0xF0, 0x80, 0x80, 0x80, 0xF0] ++ [0xE0, 0x90, 0x90, 0x90, 0xE0] ++
  [0xF0, 0x80, 0xF0, 0x80, 0xF0] ++ [0xF0, 0x80, 0xF0, 0x80, 0x80]

/-- What an unlisted address reads as: its content after reset with an empty ROM image, the font table from 0x000
and zero above it (R45, R61; log entries 6 and 7). -/
def Memory.background (a : Nat) : Byte := fontTable.getD a 0#8

/-! ### Memory, byte by byte -/

/-- The byte at an address. -/
def Memory.get : Memory → Nat → Byte
  | [], a => Memory.background a
  | (b, w) :: m, a => if a = b then w else Memory.get m a

/-- List a cell in front of the cells above it, unless it holds what an unlisted address reads as. -/
def Memory.cons (a : Nat) (w : Byte) (m : Memory) : Memory :=
  if w = Memory.background a then m else (a, w) :: m

/-- Write one byte, keeping the canonical form. -/
def Memory.put : Memory → Nat → Byte → Memory
  | [], a, w => Memory.cons a w []
  | (b, u) :: m, a, w =>
    if a < b then Memory.cons a w ((b, u) :: m)
    else if a = b then Memory.cons a w m
    else (b, u) :: Memory.put m a w

/-- Write a sequence of bytes at ascending addresses. -/
def Memory.putBytes : Memory → Nat → List Byte → Memory
  | m, _, [] => m
  | m, a, w :: ws => Memory.putBytes (m.put a w) (a + 1) ws

/-- Every listed address is at least `low` and inside the address space, addresses rise strictly, and no cell holds
what an unlisted address reads as. -/
def Memory.wfFrom : Nat → Memory → Bool
  | _, [] => true
  | low, (a, w) :: m =>
    decide (low ≤ a) && decide (a < Config.memSize) && w != Memory.background a && Memory.wfFrom (a + 1) m

/-- The canonical form of a memory. -/
def Memory.wf (m : Memory) : Bool := Memory.wfFrom 0 m

/-! ### The access primitives -/

/-- A span of `n` bytes from `addr` lies in memory; a span of no bytes does wherever it starts (R63 to R65). The sum
is that of natural numbers, so it does not wrap. -/
def spanFits (addr n : Nat) : Bool := n == 0 || decide (addr + n ≤ Config.memSize)

/-- `MemRead(addr, n)`: the bytes of the span, or none where the span leaves memory (R63, R65). -/
def State.memRead (s : State) (addr n : Nat) : Option (List Byte) :=
  if spanFits addr n then some ((List.range n).map fun i => s.mem.get (addr + i)) else none

/-- `MemWrite(addr, n, v)`: the state with the bytes written, or none, and nothing written, where the span leaves
memory (R64). -/
def State.memWrite (s : State) (addr : Nat) (bytes : List Byte) : Option State :=
  if spanFits addr bytes.length then some { s with mem := s.mem.putBytes addr bytes } else none

/-! ### Registers -/

/-- Read `V[x]` (R20). -/
def State.reg (s : State) (x : Reg) : Byte := s.v[x.val]

/-- `V[x] <- b` (R20, R21: `VF` is a cell like the others). -/
def State.setReg (s : State) (x : Reg) (b : Byte) : State := { s with v := s.v.set x.val b }

/-- `V[0]` to `V[x]`, in ascending order. -/
def State.regsTo (s : State) (x : Reg) : List Byte := s.v.toList.take (x.val + 1)

/-- `V[i] <- bytes[i]` for every index `i` that the sequence has; the registers above keep their values. -/
def State.setRegs (s : State) (bytes : List Byte) : State :=
  { s with v := Vector.ofFn fun i : Fin 16 => bytes.getD i.val (s.reg i) }

/-- `L <- a` (R29). -/
def State.setL (s : State) (a : Word) : State := { s with l := a }

/-- `DT <- b` (R32). -/
def State.setDt (s : State) (b : Byte) : State := { s with dt := b }

/-- `ST <- b` (R32). -/
def State.setSt (s : State) (b : Byte) : State := { s with st := b }

/-- `run_state <- r` (R30). -/
def State.setRunState (s : State) (r : RunState) : State := { s with runState := r }

/-! ### The program counter -/

/-- `pc <- target`; the target is not checked here (R26, R128). -/
def State.setPc (s : State) (target : Word) : State := { s with pc := target }

/-- `pc <- pc + 2`, one instruction word (R25, R128). -/
def State.advance (s : State) : State := s.setPc (s.pc + 2#16)

/-- The program counter of a skip instruction: two words on when the condition holds, else one (R25). -/
def State.skipIf (s : State) (c : Bool) : State := s.setPc (s.pc + if c then 4#16 else 2#16)

/-! ### The call stack -/

/-- Push an entry, or none where all sixteen entries are live (R31, R154). -/
def State.push (s : State) (a : Word) : Option State :=
  if h : s.sp.val < 16 then
    some { s with stack := s.stack.set s.sp.val a, sp := ⟨s.sp.val + 1, by omega⟩ }
  else none

/-- Pop the most recent entry, or none where the stack is empty; its storage keeps its value (R31, R152). -/
def State.pop (s : State) : Option (Word × State) :=
  if h : 0 < s.sp.val then
    some (s.stack[s.sp.val - 1]'(by omega), { s with sp := ⟨s.sp.val - 1, by omega⟩ })
  else none

/-! ### Taking an exception -/

/-- The code written to `halt_cause` (R230, log entry 16). -/
def HaltCause.code : HaltCause → BitVec 3
  | .none => 0
  | .unrecognizedOpcode => 1
  | .outOfRangeAccess => 2
  | .emptyCallStackReturn => 3
  | .misalignedFetch => 4
  | .stackOverflow => 5

/-- `raise`, the halt entry: the run-state becomes `Halted`, the halt record is written, and nothing else changes
(R238). The state it is applied to is the one before the faulting instruction, so none of the instruction's writes
happens (R12, R129). There is no return from it (R240). -/
def State.raise (s : State) (cause : HaltCause) (word addr : Word) : State :=
  { s with runState := .halted, haltCause := cause, haltWord := word, haltAddr := addr }

/-- Whether the machine has halted: the `halted` output (R37). -/
def State.isHalted (s : State) : Bool := decide (s.runState = .halted)

/-! ### Instruction fetch -/

/-- Phase 3a: the word at `pc`, or the cause of the fetch fault. The range test comes first (R125, log entry 13);
the byte at the lower address is the more significant one (R66). -/
def State.fetch (s : State) : Except HaltCause Word :=
  if s.pc.toNat + 1 > 0xFFF then .error .outOfRangeAccess
  else if s.pc.toNat % 2 = 1 then .error .misalignedFetch
  else .ok (wordOfBytes (s.mem.get s.pc.toNat) (s.mem.get (s.pc.toNat + 1)))

/-! ### Reset with a ROM image -/

/-- `Reset(rom)`: the reset state with the image copied from 0x200 upward (R45, R260), or a refusal of an image that
does not fit (R263, log entry 9). -/
def State.resetWith (rom : List Byte) : Host.Outcome State Fault Refusal :=
  if rom.length ≤ Config.progMax then
    .next { State.reset with mem := State.reset.mem.putBytes Config.progBase rom }
  else .refused .romTooLong

end Sys2Proof.Machine
end

