-- ==== Sys2Proof/Machine/Operands.lean ====
section
/-! DEFINITION. The operand forms beside the plain register and the 8-bit literal (30_encoding.md rule R93): the
literal address, the keypad, the inputs of the frame, the start position of a sprite. -/

namespace Sys2Proof.Machine

/-- `zext_16(nnn)`, a byte address as it stands (R93). -/
def addrWord (nnn : Addr) : Word := BitVec.ofNat 16 nnn.toNat

/-- `zext_16(b)` of a register's value (R159, R191, R192). -/
def byteWord (b : Byte) : Word := BitVec.ofNat 16 b.toNat

/-- The address of the font glyph of a value, `k * 5`, not masked (R192, log entry 24). -/
def glyphAddr (k : Byte) : Word := BitVec.ofNat 16 (k.toNat * Config.glyphBytes)

/-- Whether the key that a register's value names is pressed in this frame; a value of 16 or more names no key and
reads as not pressed (R160, R161, log entry 17). -/
def State.keyPressed (s : State) (k : Byte) : Bool := s.keypad.toList.getD k.toNat false

/-- The inputs of the current frame: those the environment has named, else the free values of the configuration for
this frame (R36, log entry 1). -/
def State.currentInput (s : State) : FrameInput :=
  match s.inputs with
  | i :: _ => i
  | [] => ⟨Config.keysIn s.frame, Config.rndIn s.frame⟩

/-- The start column of a sprite, `V[x] mod 64` (R211). -/
def startColumn (b : Byte) : Fin 64 := ⟨b.toNat % 64, Nat.mod_lt _ (by decide)⟩

/-- The start row of a sprite, `V[y] mod 32` (R211). -/
def startRow (b : Byte) : Fin 32 := ⟨b.toNat % 32, Nat.mod_lt _ (by decide)⟩

end Sys2Proof.Machine
end

