-- ==== Sys2Proof/Machine/ControlFlow.lean ====
section
/-! DEFINITION. The control-flow instructions (41_control_flow.md rules R151 to R161). `pc` holds the address of the
instruction itself while it executes (10_state.md rule R24). -/

namespace Sys2Proof.Machine

/-- SYS nnn: a no-operation (R151). -/
def execSys (_nnn : Addr) (s : State) : Host.Outcome State Fault Refusal :=
  .next s.advance

/-- RET: the most recent entry is the address of the CALL, and control resumes one word past it (R152, R233). -/
def execRet (s : State) : Host.Outcome State Fault Refusal :=
  match s.pop with
  | none => .next (s.raise .emptyCallStackReturn (encode .ret) s.pc)
  | some (a, s') => .next (s'.setPc (a + 2#16))

/-- JP nnn (R153). -/
def execJp (nnn : Addr) (s : State) : Host.Outcome State Fault Refusal :=
  .next (s.setPc (addrWord nnn))

/-- CALL nnn: the address of the CALL itself is pushed (R154, R235, log entry 12). -/
def execCall (nnn : Addr) (s : State) : Host.Outcome State Fault Refusal :=
  match s.push s.pc with
  | none => .next (s.raise .stackOverflow (encode (.call nnn)) s.pc)
  | some s' => .next (s'.setPc (addrWord nnn))

/-- SE Vx, kk (R155). -/
def execSeImm (x : Reg) (kk : Byte) (s : State) : Host.Outcome State Fault Refusal :=
  .next (s.skipIf (s.reg x == kk))

/-- SNE Vx, kk (R156). -/
def execSneImm (x : Reg) (kk : Byte) (s : State) : Host.Outcome State Fault Refusal :=
  .next (s.skipIf (s.reg x != kk))

/-- SE Vx, Vy (R157). -/
def execSeReg (x y : Reg) (s : State) : Host.Outcome State Fault Refusal :=
  .next (s.skipIf (s.reg x == s.reg y))

/-- SNE Vx, Vy (R158). -/
def execSneReg (x y : Reg) (s : State) : Host.Outcome State Fault Refusal :=
  .next (s.skipIf (s.reg x != s.reg y))

/-- JP V0, nnn: the sum is not reduced modulo 4096 (R159, log entry 29). -/
def execJpV0 (nnn : Addr) (s : State) : Host.Outcome State Fault Refusal :=
  .next (s.setPc (addrWord nnn + byteWord (s.reg 0)))

/-- SKP Vx: reads the keypad as sampled in this frame (R160, log entry 17). -/
def execSkp (x : Reg) (s : State) : Host.Outcome State Fault Refusal :=
  .next (s.skipIf (s.keyPressed (s.reg x)))

/-- SKNP Vx (R161, log entry 17). -/
def execSknp (x : Reg) (s : State) : Host.Outcome State Fault Refusal :=
  .next (s.skipIf (!s.keyPressed (s.reg x)))

end Sys2Proof.Machine
end

