-- ==== Sys2Proof/Machine/Blit.lean ====
section
/-! DEFINITION. The blit engine (45_display.md rules R212 to R215): which display cells the set bits of a sprite
touch, in the order of the spec's two loops, and the XOR of one cell with its collision and its transition. -/

namespace Sys2Proof.Machine

/-- Read the pixel at a row and a column. -/
def Display.pixel (d : Display) (r : Fin 32) (c : Fin 64) : Bool := d[r.val][c.val]

/-- Write the pixel at a row and a column. -/
def Display.setPixel (d : Display) (r : Fin 32) (c : Fin 64) (b : Bool) : Display :=
  d.set r.val (d[r.val].set c.val b)

/-- `(x0 + c) mod 64`: columns wrap (R212, R215). -/
def wrapColumn (x0 : Fin 64) (c : Nat) : Fin 64 := ⟨(x0.val + c) % 64, Nat.mod_lt _ (by decide)⟩

/-- The cells that the set bits of one sprite row touch, left to right; bit 7 is column 0 (R212, log entry 28). -/
def spriteRowCells (x0 : Fin 64) (yy : Fin 32) (row : Byte) : List (Fin 32 × Fin 64) :=
  ((List.range 8).filter fun c => row.getLsbD (7 - c)).map fun c => (yy, wrapColumn x0 c)

/-- The cells of a whole sprite, top to bottom; a row at 32 or beyond is clipped (R212, R215). -/
def spriteCells (x0 : Fin 64) : Nat → List Byte → List (Fin 32 × Fin 64)
  | _, [] => []
  | yy, row :: rows =>
    (if h : yy < 32 then spriteRowCells x0 ⟨yy, h⟩ row else []) ++ spriteCells x0 (yy + 1) rows

/-- What the blit engine has done so far: the display, whether a set pixel was erased, and the transitions. -/
structure BlitState where
  disp : Display
  erased : Bool
  transitions : List Transition
  deriving DecidableEq, Repr

/-- XOR one cell with 1, note a collision, and report the transition (R212 to R214). -/
def flipPixel (b : BlitState) (cell : Fin 32 × Fin 64) : BlitState :=
  let old := b.disp.pixel cell.1 cell.2
  { disp := b.disp.setPixel cell.1 cell.2 (!old)
    erased := b.erased || old
    transitions := b.transitions ++ [⟨cell.2, cell.1, if old then .erased else .drawn⟩] }

/-- `Blit(x0, y0, s)` (R212). -/
def runBlit (d : Display) (x0 : Fin 64) (y0 : Fin 32) (rows : List Byte) : BlitState :=
  (spriteCells x0 y0.val rows).foldl flipPixel ⟨d, false, []⟩

end Sys2Proof.Machine
end

