-- ==== Sys2Proof/Machine/Flags.lean ====
section
/-! DEFINITION. The results and flags of the arithmetic instructions: each is computed on natural numbers and then
narrowed (42_register_ops.md rules R182 and R183). `VF` is the only flag (10_state.md rule R28). -/

namespace Sys2Proof.Machine

/-- The flag register `VF`, `V[15]` (R21). -/
abbrev flagReg : Reg := 15

/-- A flag as a byte: 0x01 for true, 0x00 for false (R21, R183). -/
def flagByte (c : Bool) : Byte := if c then 0x01#8 else 0x00#8

/-- The sum modulo 256 (R176). -/
def addResult (a b : Byte) : Byte := BitVec.ofNat 8 (a.toNat + b.toNat)

/-- The carry: the unsigned sum is 256 or more (R176). -/
def addCarry (a b : Byte) : Bool := decide (a.toNat + b.toNat ≥ 256)

/-- The difference `a - b` modulo 256 (R177, R179). -/
def subResult (a b : Byte) : Byte := BitVec.ofInt 8 ((a.toNat : Int) - (b.toNat : Int))

/-- Not borrow: `a >= b` (R177, R179). -/
def notBorrow (a b : Byte) : Bool := decide (a.toNat ≥ b.toNat)

/-- The value shifted right by one; bit 7 of the result is 0 (R178). -/
def shrResult (a : Byte) : Byte := BitVec.ofNat 8 (a.toNat / 2)

/-- The bit a right shift moves out, `a[0]` (R178). -/
def shrFlag (a : Byte) : Bool := a.getLsbD 0

/-- The value shifted left by one modulo 256; bit 0 of the result is 0 (R180). -/
def shlResult (a : Byte) : Byte := BitVec.ofNat 8 (a.toNat * 2)

/-- The bit a left shift moves out, `a[7]` (R180). -/
def shlFlag (a : Byte) : Bool := a.getLsbD 7

/-- Write the result to `V[x]`, then the flag to `V[15]`: with `x = 15` the flag is what stays (R183, log entry 23). -/
def State.setResultFlag (s : State) (x : Reg) (result : Byte) (flag : Bool) : State :=
  (s.setReg x result).setReg flagReg (flagByte flag)

end Sys2Proof.Machine
end

