-- ==== Sys2Proof/Machine/DisplayOps.lean ====
section
/-! DEFINITION. The display instructions (45_display.md rules R210 and R211). -/

namespace Sys2Proof.Machine

/-- Clear every pixel and report it on `display_clear`; no transitions (R210). -/
def State.clearDisplay (s : State) : State :=
  { s with disp := Display.clear, out := { s.out with displayClear := true } }

/-- Take over the display and the transitions of a blit, and write the collision flag (R211, R213). -/
def State.takeBlit (s : State) (b : BlitState) : State :=
  { s with disp := b.disp, out := { s.out with transitions := b.transitions } }.setReg flagReg (flagByte b.erased)

/-- CLS (R210); `VF` is not written. -/
def execCls (s : State) : Host.Outcome State Fault Refusal :=
  .next s.clearDisplay.advance

/-- DRW Vx, Vy, n: all `n` bytes are read and checked before anything is drawn; a draw of no rows reads nothing and
clears `VF` (R211, log entry 27). -/
def execDrw (x y : Reg) (n : Count) (s : State) : Host.Outcome State Fault Refusal :=
  match s.memRead s.l.toNat n.val with
  | none => .next (s.raise .outOfRangeAccess (encode (.drw x y n)) s.l)
  | some rows => .next (s.takeBlit (runBlit s.disp (startColumn (s.reg x)) (startRow (s.reg y)) rows)).advance

end Sys2Proof.Machine
end

