-- ==== Sys2Proof/Machine/IndexMemory.lean ====
section
/-! DEFINITION. The index-register and memory instructions (43_index_memory.md rules R190 to R195). None writes `VF`
as a flag, and a bulk transfer leaves `L` as it was (log entry 25). -/

namespace Sys2Proof.Machine

/-- LD L, nnn (R190). -/
def execLdL (nnn : Addr) (s : State) : Host.Outcome State Fault Refusal :=
  .next (s.setL (addrWord nnn)).advance

/-- ADD L, Vx: wraps within 16 bits (R191). -/
def execAddLVx (x : Reg) (s : State) : Host.Outcome State Fault Refusal :=
  .next (s.setL (s.l + byteWord (s.reg x))).advance

/-- LD F, Vx (R192, log entry 24). -/
def execLdFVx (x : Reg) (s : State) : Host.Outcome State Fault Refusal :=
  .next (s.setL (glyphAddr (s.reg x))).advance

/-- LD [L], Vx: `V[0]` to `V[x]` at ascending addresses from `L` (R193). -/
def execLdMemVx (x : Reg) (s : State) : Host.Outcome State Fault Refusal :=
  match s.memWrite s.l.toNat (s.regsTo x) with
  | none => .next (s.raise .outOfRangeAccess (encode (.ldMemVx x)) s.l)
  | some s' => .next s'.advance

/-- LD Vx, [L]: `V[0]` to `V[x]` from ascending addresses (R194). -/
def execLdVxMem (x : Reg) (s : State) : Host.Outcome State Fault Refusal :=
  match s.memRead s.l.toNat (x.val + 1) with
  | none => .next (s.raise .outOfRangeAccess (encode (.ldVxMem x)) s.l)
  | some bytes => .next (s.setRegs bytes).advance

end Sys2Proof.Machine
end

