-- ==== Sys2Proof/Machine/RegisterOps.lean ====
section
/-! DEFINITION. The register and arithmetic instructions (42_register_ops.md rules R170 to R184). Each reads its
operands before it writes, writes `V[x]` (and then `VF` where it has a flag) and advances `pc` by one word. -/

namespace Sys2Proof.Machine

/-- LD Vx, kk (R170). -/
def execLdImm (x : Reg) (kk : Byte) (s : State) : Host.Outcome State Fault Refusal :=
  .next (s.setReg x kk).advance

/-- ADD Vx, kk: wraps, no flag (R171). -/
def execAddImm (x : Reg) (kk : Byte) (s : State) : Host.Outcome State Fault Refusal :=
  .next (s.setReg x (addResult (s.reg x) kk)).advance

/-- LD Vx, Vy (R172). -/
def execLdReg (x y : Reg) (s : State) : Host.Outcome State Fault Refusal :=
  .next (s.setReg x (s.reg y)).advance

/-- OR Vx, Vy (R173); `VF` is no flag here (R184, log entry 21). -/
def execOrReg (x y : Reg) (s : State) : Host.Outcome State Fault Refusal :=
  .next (s.setReg x (s.reg x ||| s.reg y)).advance

/-- AND Vx, Vy (R174). -/
def execAndReg (x y : Reg) (s : State) : Host.Outcome State Fault Refusal :=
  .next (s.setReg x (s.reg x &&& s.reg y)).advance

/-- XOR Vx, Vy (R175). -/
def execXorReg (x y : Reg) (s : State) : Host.Outcome State Fault Refusal :=
  .next (s.setReg x (s.reg x ^^^ s.reg y)).advance

/-- ADD Vx, Vy: `VF` receives the carry; the old `VF` is not added in (R176). -/
def execAddReg (x y : Reg) (s : State) : Host.Outcome State Fault Refusal :=
  .next (s.setResultFlag x (addResult (s.reg x) (s.reg y)) (addCarry (s.reg x) (s.reg y))).advance

/-- SUB Vx, Vy: `VF` receives not-borrow of `V[x] - V[y]` (R177). -/
def execSub (x y : Reg) (s : State) : Host.Outcome State Fault Refusal :=
  .next (s.setResultFlag x (subResult (s.reg x) (s.reg y)) (notBorrow (s.reg x) (s.reg y))).advance

/-- SHR Vx: in place; the encoded `y` is ignored (R178, log entry 22). -/
def execShr (x _y : Reg) (s : State) : Host.Outcome State Fault Refusal :=
  .next (s.setResultFlag x (shrResult (s.reg x)) (shrFlag (s.reg x))).advance

/-- SUBN Vx, Vy: `VF` receives not-borrow of `V[y] - V[x]`; the destination is still `V[x]` (R179). -/
def execSubn (x y : Reg) (s : State) : Host.Outcome State Fault Refusal :=
  .next (s.setResultFlag x (subResult (s.reg y) (s.reg x)) (notBorrow (s.reg y) (s.reg x))).advance

/-- SHL Vx: in place; the encoded `y` is ignored (R180, log entry 22). -/
def execShl (x _y : Reg) (s : State) : Host.Outcome State Fault Refusal :=
  .next (s.setResultFlag x (shlResult (s.reg x)) (shlFlag (s.reg x))).advance

/-- RND Vx, kk: the frame's input `rnd_in`, any value, under the mask `kk` (R181, log entries 1 and 30). -/
def execRnd (x : Reg) (kk : Byte) (s : State) : Host.Outcome State Fault Refusal :=
  .next (s.setReg x (s.currentInput.rnd &&& kk)).advance

end Sys2Proof.Machine
end

