-- ==== Sys2Proof/Machine/TimerKey.lean ====
section
/-! DEFINITION. The timer and key-wait instructions (44_timer_key.md rules R200 to R203). The countdown itself is
a phase of the frame (Machine/Frame.lean). -/

namespace Sys2Proof.Machine

/-- LD Vx, DT (R200). -/
def execLdVxDt (x : Reg) (s : State) : Host.Outcome State Fault Refusal :=
  .next (s.setReg x s.dt).advance

/-- LD Vx, K: arms the wait; `V[x]` is written by the frame that resolves it (R201, log entry 19). -/
def execLdVxK (x : Reg) (s : State) : Host.Outcome State Fault Refusal :=
  .next (s.setRunState (.waitingForKey x)).advance

/-- LD DT, Vx (R202). -/
def execLdDtVx (x : Reg) (s : State) : Host.Outcome State Fault Refusal :=
  .next (s.setDt (s.reg x)).advance

/-- LD ST, Vx (R203). -/
def execLdStVx (x : Reg) (s : State) : Host.Outcome State Fault Refusal :=
  .next (s.setSt (s.reg x)).advance

end Sys2Proof.Machine
end

