-- ==== Sys2Proof/Machine/Frame.lean ====
section
/-! DEFINITION. The frame, the one step of the machine (40_frame_cycle.md rules R120 to R134): its phases, each an
operation of its own, and their sequence. Reading the key state, writing memory and drawing are done inside the
instruction, not by a separate side-effect phase (R134). -/

namespace Sys2Proof.Machine

/-! ### The phases -/

/-- A frame begins with the outputs `beep = 0`, `display_clear = 0`, `transitions = []` (R121, R122). -/
def State.clearOutputs (s : State) : State := { s with out := Outputs.quiet }

/-- The pressed flag of every key from the port `keys_in` (R36, R123). -/
def keypadOf (keys : BitVec 16) : Vector Bool 16 := Vector.ofFn fun k : Fin 16 => keys.getLsbD k.val

/-- Phase 1: sample the keypad (R123). -/
def State.sampleKeypad (s : State) : State := { s with keypad := keypadOf s.currentInput.keys }

/-- The lowest pressed key, if any is pressed (R124, log entry 18). -/
def lowestKey (keypad : Vector Bool 16) : Option Key :=
  (List.finRange 16).find? fun k => keypad[k.val]

/-- Phase 2: resolve a pending key wait (R124). -/
def State.resolveKeyWait (s : State) : State :=
  match s.runState with
  | .normal => s
  | .halted => s
  | .waitingForKey t =>
    match lowestKey s.keypad with
    | none => s
    | some k => (s.setReg t (BitVec.ofNat 8 k.val)).setRunState .normal

/-- Phases 3a to 3c: fetch, decode, execute (R125 to R127). A fetch or decode fault halts. -/
def runInstruction (s : State) : Host.Outcome State Fault Refusal :=
  match s.fetch with
  | .error cause => .next (s.raise cause 0x0000#16 s.pc)
  | .ok w =>
    match decodeWord w with
    | .error _ => .next (s.raise .unrecognizedOpcode w s.pc)
    | .ok i => exec i s

/-- One count of a timer: down by one while nonzero, at rest at zero (R130, log entry 20). -/
def tick (b : Byte) : Byte := if b = 0#8 then 0#8 else b - 1#8

/-- Phase 4: the beep, from the sound timer before its decrement, and the two timers (R130). -/
def State.tickTimers (s : State) : State :=
  { s with out := { s.out with beep := s.st != 0#8 }, dt := tick s.dt, st := tick s.st }

/-- Phase 5: clear the keypad (R131). -/
def State.clearKeypad (s : State) : State := { s with keypad := noKeys }

/-- The environment's inputs of this frame are used up; the next frame has the next ones (log entry 1). -/
def State.nextInput (s : State) : State := { s with inputs := s.inputs.tail, frame := s.frame + 1 }

/-! ### The sequence -/

/-- Before phase 3: the outputs and phase 1. -/
def State.openFrame (s : State) : State := s.clearOutputs.sampleKeypad

/-- After phase 3: phases 4 and 5, unless the frame raised (R129); then the inputs are used up. -/
def State.closeFrame (s : State) : State :=
  match s.runState with
  | .halted => s.nextInput
  | .normal => s.tickTimers.clearKeypad.nextInput
  | .waitingForKey _ => s.tickTimers.clearKeypad.nextInput

/-- Phase 3 onward: an instruction runs only in `Normal` (R121). -/
def runPhases (s : State) : Host.Outcome State Fault Refusal :=
  match s.runState with
  | .normal =>
    match runInstruction s with
    | .next t => .next t.closeFrame
    | .fault r => .fault r
    | .refused r => .refused r
  | .halted => .next s.closeFrame
  | .waitingForKey _ => .next s.closeFrame

/-- One frame (R121). A halted machine changes no state and gives no output (R122). -/
def runFrame (s : State) : Host.Outcome State Fault Refusal :=
  match s.runState with
  | .halted => .next s.clearOutputs.nextInput
  | .normal => runPhases s.openFrame.resolveKeyWait
  | .waitingForKey _ => runPhases s.openFrame.resolveKeyWait

/-! ### Placing an instruction where the next fetch finds it -/

/-- Whether a fetch at this address succeeds (R125). -/
def fetchable (pc : Word) : Bool := decide (pc.toNat + 1 ≤ 0xFFF) && pc.toNat % 2 == 0

/-- The state with a word stored where the next frame fetches. A state whose next frame would fetch nothing is first
brought to `Normal`, and a `pc` that cannot be fetched from to the entry point (log entry 35). -/
def State.placeWord (s : State) (w : Word) : State :=
  let pc := if fetchable s.pc then s.pc else BitVec.ofNat 16 Config.progBase
  { s with pc := pc, runState := .normal, mem := s.mem.putBytes pc.toNat [highByte w, lowByte w] }

end Sys2Proof.Machine
end

