-- ==== Sys2Proof/Machine/Step.lean ====
section
/-! DEFINITION. The step of the machine is one frame (40_frame_cycle.md rule R120). -/

namespace Sys2Proof.Machine

/-- One step: one frame. -/
def step (s : State) : Host.Outcome State Fault Refusal := runFrame s

/-- The state with one instruction stored where `step` fetches its next instruction. The word is numbered as the
opcode table numbers it: the whole 16-bit instruction word, whose high byte is stored first (R66). -/
def State.withFetchWord (s : State) (nbits w : Nat) : State := s.placeWord (BitVec.ofNat 16 (w % 2 ^ nbits))

end Sys2Proof.Machine
end

