-- ==== Sys2Proof/Safety.lean ====
section
/-! DEFINITION. The terms claims are stated in: which parts of the state are the same before and after, the halt
entry as a relation, the instruction a frame executes, the registers an instruction writes (10_state.md rule R22),
when it raises (60_exceptions.md rule R237), which display cells a sprite covers, and the invariant of every state
between two frames. A safe run is one that never halts. -/

namespace Sys2Proof.Machine

/-! ### What stays the same -/

/-- Every general register outside the list reads the same. -/
def SameRegsBut (dst : List Reg) (s t : State) : Prop := ∀ r : Reg, r ∉ dst → t.reg r = s.reg r

/-- Every byte of memory reads the same. -/
def SameMemory (s t : State) : Prop := ∀ a : Nat, t.mem.get a = s.mem.get a

/-- Every pixel reads the same. -/
def SameDisplay (s t : State) : Prop := ∀ (r : Fin 32) (c : Fin 64), t.disp.pixel r c = s.disp.pixel r c

/-- The index register is the same. -/
def SameIndex (s t : State) : Prop := t.l = s.l

/-- The two timers are the same. -/
def SameTimers (s t : State) : Prop := t.dt = s.dt ∧ t.st = s.st

/-- The depth and all sixteen entries of the call stack are the same. -/
def SameStack (s t : State) : Prop := t.sp = s.sp ∧ t.stack = s.stack

/-- The halt record is the same. -/
def SameHaltRecord (s t : State) : Prop :=
  t.haltCause = s.haltCause ∧ t.haltWord = s.haltWord ∧ t.haltAddr = s.haltAddr

/-- The run-state and the halt record are the same. -/
def SameRunState (s t : State) : Prop := t.runState = s.runState ∧ SameHaltRecord s t

/-- The keypad and the inputs still to come are the same. -/
def SameInputs (s t : State) : Prop := t.keypad = s.keypad ∧ t.inputs = s.inputs ∧ t.frame = s.frame

/-- The output ports are the same. -/
def SameOutputs (s t : State) : Prop := t.out = s.out

/-- Only the listed registers and the program counter may differ: the frame of an instruction that writes nothing
else. -/
def OnlyRegsAndPc (dst : List Reg) (s t : State) : Prop :=
  SameRegsBut dst s t ∧ SameMemory s t ∧ SameDisplay s t ∧ SameIndex s t ∧ SameTimers s t ∧ SameStack s t ∧
    SameRunState s t ∧ SameInputs s t ∧ SameOutputs s t

/-- The program's view of the machine is the same: registers, `L`, `pc`, the call stack, the timers, memory and the
display. -/
def SameMachine (s t : State) : Prop :=
  SameRegsBut [] s t ∧ SameMemory s t ∧ SameDisplay s t ∧ SameIndex s t ∧ t.pc = s.pc ∧ SameTimers s t ∧ SameStack s t

/-- The halt entry (R238): the run-state is `Halted`, the record holds the cause, the word and the address, and
everything else is as it was. -/
def HaltEntry (s : State) (cause : HaltCause) (word addr : Word) (t : State) : Prop :=
  t.runState = .halted ∧ t.haltCause = cause ∧ t.haltWord = word ∧ t.haltAddr = addr ∧
    SameMachine s t ∧ SameInputs s t ∧ SameOutputs s t

/-- A frame that raises (R129, R238): the machine halts with that record, the program's view of it is as it was before
the fetch, the keypad is left holding the sample, and no output is given. -/
def HaltFrame (s : State) (cause : HaltCause) (word addr : Word) (t : State) : Prop :=
  t.runState = .halted ∧ t.haltCause = cause ∧ t.haltWord = word ∧ t.haltAddr = addr ∧
    SameMachine s t ∧ (∀ k : Key, t.keypad[k.val] = s.currentInput.keys.getLsbD k.val) ∧ t.out = Outputs.quiet

/-! ### What a frame does -/

/-- The state at the start of phase 3: outputs cleared, keypad sampled, a pending key wait resolved (R121). -/
def State.atPhase3 (s : State) : State := s.openFrame.resolveKeyWait

/-- The instruction that the frame from this state executes, if it executes one (R133). -/
def State.executed (s : State) : Option Instr :=
  if s.runState = .halted ∨ s.atPhase3.runState ≠ .normal then none
  else
    match s.atPhase3.fetch with
    | .error _ => none
    | .ok w =>
      match decodeWord w with
      | .error _ => none
      | .ok i => some i

/-- The registers an instruction writes when it executes (the table of R22). -/
def destRegs : Instr → List Reg
  | .cls => []
  | .ret => []
  | .sys _ => []
  | .jp _ => []
  | .call _ => []
  | .seImm _ _ => []
  | .sneImm _ _ => []
  | .seReg _ _ => []
  | .ldImm x _ => [x]
  | .addImm x _ => [x]
  | .ldReg x _ => [x]
  | .orReg x _ => [x]
  | .andReg x _ => [x]
  | .xorReg x _ => [x]
  | .addReg x _ => [x, 15]
  | .sub x _ => [x, 15]
  | .shr x _ => [x, 15]
  | .subn x _ => [x, 15]
  | .shl x _ => [x, 15]
  | .sneReg _ _ => []
  | .ldL _ => []
  | .jpV0 _ => []
  | .rnd x _ => [x]
  | .drw _ _ _ => [15]
  | .skp _ => []
  | .sknp _ => []
  | .ldVxDt x => [x]
  | .ldVxK _ => []
  | .ldDtVx _ => []
  | .ldStVx _ => []
  | .addLVx _ => []
  | .ldFVx _ => []
  | .ldMemVx _ => []
  | .ldVxMem x => (List.finRange 16).filter fun r => r.val ≤ x.val

/-- The cause that an instruction raises in a state, if it raises one: each instruction has at most one (R237). -/
def raises (i : Instr) (s : State) : Option HaltCause :=
  match i with
  | .ret => if s.sp.val = 0 then some .emptyCallStackReturn else none
  | .call _ => if s.sp.val = 16 then some .stackOverflow else none
  | .ldMemVx x => if s.l.toNat + x.val + 1 > 4096 then some .outOfRangeAccess else none
  | .ldVxMem x => if s.l.toNat + x.val + 1 > 4096 then some .outOfRangeAccess else none
  | .drw _ _ n => if n.val ≥ 1 ∧ s.l.toNat + n.val > 4096 then some .outOfRangeAccess else none
  | .cls => none
  | .sys _ => none
  | .jp _ => none
  | .seImm _ _ => none
  | .sneImm _ _ => none
  | .seReg _ _ => none
  | .ldImm _ _ => none
  | .addImm _ _ => none
  | .ldReg _ _ => none
  | .orReg _ _ => none
  | .andReg _ _ => none
  | .xorReg _ _ => none
  | .addReg _ _ => none
  | .sub _ _ => none
  | .shr _ _ => none
  | .subn _ _ => none
  | .shl _ _ => none
  | .sneReg _ _ => none
  | .ldL _ => none
  | .jpV0 _ => none
  | .rnd _ _ => none
  | .skp _ => none
  | .sknp _ => none
  | .ldVxDt _ => none
  | .ldVxK _ => none
  | .ldDtVx _ => none
  | .ldStVx _ => none
  | .addLVx _ => none
  | .ldFVx _ => none

/-- Whether an instruction sets `pc` itself: the four exceptions of R25. -/
def setsPc : Instr → Bool
  | .cls => false
  | .ret => true
  | .sys _ => false
  | .jp _ => true
  | .call _ => true
  | .seImm _ _ => false
  | .sneImm _ _ => false
  | .seReg _ _ => false
  | .ldImm _ _ => false
  | .addImm _ _ => false
  | .ldReg _ _ => false
  | .orReg _ _ => false
  | .andReg _ _ => false
  | .xorReg _ _ => false
  | .addReg _ _ => false
  | .sub _ _ => false
  | .shr _ _ => false
  | .subn _ _ => false
  | .shl _ _ => false
  | .sneReg _ _ => false
  | .ldL _ => false
  | .jpV0 _ => true
  | .rnd _ _ => false
  | .drw _ _ _ => false
  | .skp _ => false
  | .sknp _ => false
  | .ldVxDt _ => false
  | .ldVxK _ => false
  | .ldDtVx _ => false
  | .ldStVx _ => false
  | .addLVx _ => false
  | .ldFVx _ => false
  | .ldMemVx _ => false
  | .ldVxMem _ => false

/-- Whether an instruction is a skip whose condition holds in a state (R25, R155 to R158, R160, R161; that a value of 16
or more names no key is log entry 17). -/
def skips : Instr → State → Prop
  | .cls, _ => False
  | .ret, _ => False
  | .sys _, _ => False
  | .jp _, _ => False
  | .call _, _ => False
  | .seImm x kk, s => s.reg x = kk
  | .sneImm x kk, s => s.reg x ≠ kk
  | .seReg x y, s => s.reg x = s.reg y
  | .ldImm _ _, _ => False
  | .addImm _ _, _ => False
  | .ldReg _ _, _ => False
  | .orReg _ _, _ => False
  | .andReg _ _, _ => False
  | .xorReg _ _, _ => False
  | .addReg _ _, _ => False
  | .sub _ _, _ => False
  | .shr _ _, _ => False
  | .subn _ _, _ => False
  | .shl _ _, _ => False
  | .sneReg x y, s => s.reg x ≠ s.reg y
  | .ldL _, _ => False
  | .jpV0 _, _ => False
  | .rnd _ _, _ => False
  | .drw _ _ _, _ => False
  | .skp x, s => ∃ h : (s.reg x).toNat < 16, s.keypad[(s.reg x).toNat] = true
  | .sknp x, s => ¬ ∃ h : (s.reg x).toNat < 16, s.keypad[(s.reg x).toNat] = true
  | .ldVxDt _, _ => False
  | .ldVxK _, _ => False
  | .ldDtVx _, _ => False
  | .ldStVx _, _ => False
  | .addLVx _, _ => False
  | .ldFVx _, _ => False
  | .ldMemVx _, _ => False
  | .ldVxMem _, _ => False

/-! ### The display -/

/-- The column of the sprite, 0 to 7, that lands on display column `c` when the sprite starts at column `x0`; 8 or
more where none does (R212: horizontal wrap). -/
def spriteColumn (x0 : Nat) (c : Fin 64) : Nat := (c.val + (64 - x0 % 64)) % 64

/-- Whether the sprite of `n` rows read by `row`, drawn at `(x0, y0)`, has a set bit on the pixel at row `r` and column
`c`: rows below the display are dropped, columns wrap, bit 7 is the leftmost (R212, R215). -/
def spriteCovers (x0 y0 n : Nat) (row : Nat → Byte) (r : Fin 32) (c : Fin 64) : Bool :=
  decide (y0 ≤ r.val) && decide (r.val - y0 < n) && decide (spriteColumn x0 c < 8) &&
    (row (r.val - y0)).getLsbD (7 - spriteColumn x0 c)

/-- The pixels that `DRW Vx, Vy, n` touches in a state: the sprite bytes are at `L`, the position is
`(V[x] mod 64, V[y] mod 32)` (R211). -/
def State.drawCovers (s : State) (x y : Reg) (n : Count) (r : Fin 32) (c : Fin 64) : Bool :=
  spriteCovers ((s.reg x).toNat % 64) ((s.reg y).toNat % 32) n.val (fun i => s.mem.get (s.l.toNat + i)) r c

/-! ### Safe states -/

/-- The machine is running: it has not halted (R30). -/
def State.running (s : State) : Prop := s.runState ≠ .halted

/-- What holds of every state between two frames. -/
structure State.Inv (s : State) : Prop where
  /-- memory is in canonical form and lists no address outside 0x000 to 0xFFF (R60) -/
  memCanonical : s.mem.wf = true
  /-- the largest value any rule can write to `pc` is 0x10FE (R27) -/
  pcBound : s.pc.toNat ≤ 0x10FE
  /-- every live stack entry is even and in 0x000 to 0xFFE (R31) -/
  liveEntries : ∀ j : Fin 16, j.val < s.sp.val → s.stack[j.val].toNat % 2 = 0 ∧ s.stack[j.val].toNat ≤ 0xFFE
  /-- the keypad is all-false between frames, except after a halt (R39) -/
  keypadClear : s.running → s.keypad = noKeys
  /-- the halt record is that of cause 0 while the machine has not halted (R230) -/
  recordClear : s.running → s.haltCause = .none ∧ s.haltWord = 0 ∧ s.haltAddr = 0
  /-- a halted machine names its cause (R230) -/
  recordSet : s.runState = .halted → s.haltCause ≠ .none

end Sys2Proof.Machine
end

