-- ==== Sys2Proof/Certificates/Slice0/Obligations.lean ====
section
/-! DEFINITION. The statements for the provers, file by file of the spec: encoding, the frame, halting, reset, the rules
about the whole machine, and one group of statements for each family of instructions. -/

open Sys2Proof Sys2Proof.Machine

/-! ### Encoding (30_encoding.md). Every bit pattern rests on the spec's decision D3 (log entry 3). -/

/-- Words of each of the sixteen classes, written out from the pattern column of the opcode map, decode to their
instructions, and words beside the patterns are rejected (95_test_vectors.md part 2.1; the encoding is the spec's decision
D3, log entry 3; the strictness and the rejected F033 are its D5 and D4, log entry 5). -/
def Obligations.KnownWordsDecodeAsTheMapSays : Prop :=
  decodeWord 0x00E0 = .ok .cls ∧ decodeWord 0x00EE = .ok .ret ∧ decodeWord 0x00E1 = .ok (.sys 0x0E1) ∧
  decodeWord 0x1ABC = .ok (.jp 0xABC) ∧ decodeWord 0x2214 = .ok (.call 0x214) ∧
  decodeWord 0x3A7F = .ok (.seImm 0xA 0x7F) ∧ decodeWord 0x4A7F = .ok (.sneImm 0xA 0x7F) ∧
  decodeWord 0x5AB0 = .ok (.seReg 0xA 0xB) ∧ decodeWord 0x6A3C = .ok (.ldImm 0xA 0x3C) ∧
  decodeWord 0x7105 = .ok (.addImm 1 0x05) ∧ decodeWord 0x8127 = .ok (.subn 1 2) ∧
  decodeWord 0x9AB0 = .ok (.sneReg 0xA 0xB) ∧ decodeWord 0xA300 = .ok (.ldL 0x300) ∧
  decodeWord 0xB300 = .ok (.jpV0 0x300) ∧ decodeWord 0xC30F = .ok (.rnd 3 0x0F) ∧ decodeWord 0xD125 = .ok (.drw 1 2 5) ∧
  decodeWord 0xE5A1 = .ok (.sknp 5) ∧ decodeWord 0xF365 = .ok (.ldVxMem 3) ∧
  decodeWord 0x5AB1 = .error .unrecognized ∧ decodeWord 0x8128 = .error .unrecognized ∧
  decodeWord 0x9AB1 = .error .unrecognized ∧ decodeWord 0xE59F = .error .unrecognized ∧
  decodeWord 0xF033 = .error .unrecognized

/-- Decoding the bytes of a well-formed instruction gives that instruction back, with every operand, and leaves the bytes
after it. -/
def Obligations.DecodingAnEncodedInstructionGivesItBack : Prop :=
  ∀ (i : Instr) (rest : List Byte), i.wf = true → decode (encodeBytes i ++ rest) = .ok (i, rest)

/-- A word that decodes to an instruction is the word that the encoder gives for it, and the instruction is well formed.
The terms keep every operand field, the ignored `y` of SHR and SHL and the ignored `nnn` of SYS too, so words that the
spec calls the same instruction are distinct terms (the model's choice of terms, log entry 32). That no word outside the
exact patterns decodes is the spec's decision D5, log entry 5. -/
def Obligations.EncodingADecodedWordGivesItBack : Prop :=
  ∀ (w : Word) (i : Instr), decodeWord w = .ok i → encode i = w ∧ i.wf = true

/-- The rejected words are those of the table of unrecognized encodings, class by class (log entries 3 and 5). -/
def Obligations.UnrecognizedWordsAreThoseOfTheTable : Prop :=
  ∀ w : Word, decodeWord w = .error .unrecognized ↔
    (w.toNat / 0x1000 = 0x5 ∧ w.toNat % 0x10 ≠ 0) ∨
    (w.toNat / 0x1000 = 0x8 ∧ w.toNat % 0x10 ∈ [0x8, 0x9, 0xA, 0xB, 0xC, 0xD, 0xF]) ∨
    (w.toNat / 0x1000 = 0x9 ∧ w.toNat % 0x10 ≠ 0) ∨
    (w.toNat / 0x1000 = 0xE ∧ w.toNat % 0x100 ∉ [0x9E, 0xA1]) ∨
    (w.toNat / 0x1000 = 0xF ∧ w.toNat % 0x100 ∉ [0x07, 0x0A, 0x15, 0x18, 0x1E, 0x29, 0x55, 0x65])

/-- The decoder follows the rows of the opcode table: the instruction it reads from a word is one whose row the word
fits, and a word that fits a row is read as an instruction of that row. So no word fits two rows. (The patterns are the
spec's decision D3, log entry 3, and their strictness its D4 and D5, log entry 5.) -/
def Obligations.TheDecoderFollowsTheRowsOfTheOpcodeTable : Prop :=
  (∀ (w : Word) (i : Instr), decodeWord w = .ok i → i.row.fits w = true) ∧
  (∀ (w : Word) (j : Instr), j.row.fits w = true → ∃ i, decodeWord w = .ok i ∧ i.row = j.row)

/-! ### The frame (40_frame_cycle.md) -/

/-- When the two bytes at a fetchable `pc` decode to an instruction, the step is `exec` of that instruction on the state
with its outputs cleared and its keypad sampled, followed by the phases that close a frame. Opening a frame leaves the
program's view of the machine as it is, and its inputs and frame number, which are the model's own (log entry 1). -/
def Obligations.AStepRunsTheDecodedInstruction : Prop :=
  ∀ (s : State) (i : Instr), s.runState = .normal → s.pc.toNat < 0xFFF → s.pc.toNat % 2 = 0 →
    decode [s.mem.get s.pc.toNat, s.mem.get (s.pc.toNat + 1)] = .ok (i, []) →
    step s = (match exec i s.openFrame with
      | .next t => .next t.closeFrame
      | .fault r => .fault r
      | .refused r => .refused r) ∧
    SameMachine s s.openFrame ∧ SameRunState s s.openFrame ∧ s.openFrame.out = Outputs.quiet ∧
    s.openFrame.inputs = s.inputs ∧ s.openFrame.frame = s.frame ∧
    (∀ k : Key, s.openFrame.keypad[k.val] = s.currentInput.keys.getLsbD k.val)

/-- Closing a frame that did not halt: the beep is from the sound timer before its decrement, each timer counts down to
zero and stays there (log entry 20), the keypad is cleared, and nothing else of the spec's state changes. A frame that
halted is closed without a tick (log entry 15). That one frame's inputs are used up and the frame is counted is the
model's own form of the inputs, log entry 1. -/
def Obligations.ClosingAFrameTicksAndClears : Prop :=
  ∀ s : State,
    (s.running →
      s.closeFrame.dt.toNat = s.dt.toNat - 1 ∧ s.closeFrame.st.toNat = s.st.toNat - 1 ∧
      s.closeFrame.out.beep = decide (s.st.toNat ≠ 0) ∧
      (∀ k : Key, s.closeFrame.keypad[k.val] = false)) ∧
    (¬ s.running →
      SameTimers s s.closeFrame ∧ s.closeFrame.keypad = s.keypad ∧ s.closeFrame.out.beep = s.out.beep) ∧
    SameRegsBut [] s s.closeFrame ∧ SameMemory s s.closeFrame ∧ SameDisplay s s.closeFrame ∧
    SameIndex s s.closeFrame ∧ s.closeFrame.pc = s.pc ∧ SameStack s s.closeFrame ∧ SameRunState s s.closeFrame ∧
    s.closeFrame.out.displayClear = s.out.displayClear ∧ s.closeFrame.out.transitions = s.out.transitions ∧
    s.closeFrame.inputs = s.inputs.tail ∧ s.closeFrame.frame = s.frame + 1

/-- Placing a table word where the next fetch finds it makes the very next step run its instruction, from every state
with a canonical memory (every step keeps that form: EveryStepKeepsTheInvariant). The operation is the model's own, log
entry 35. -/
def Obligations.APlacedWordIsTheNextInstruction : Prop :=
  ∀ (s : State) (w : Nat) (i : Instr), s.mem.wf = true → decodeTableWord 16 w = some i →
    step (s.withFetchWord 16 w) = (match exec i (s.withFetchWord 16 w).openFrame with
      | .next t => .next t.closeFrame
      | .fault r => .fault r
      | .refused r => .refused r)

/-- A fetch outside memory halts with `OutOfRangeAccess`, and else one at an odd address with `MisalignedFetch`, each
recording `pc` and the word 0; nothing else changes (the cause and the order of the tests are the spec's decision D12,
log entry 13; the halted state, the precise halt and the record are its D13, D14 and D15, log entries 14 to 16). -/
def Obligations.AFetchOutsideMemoryOrAtAnOddAddressHalts : Prop :=
  ∀ s : State, s.runState = .normal →
    (0xFFF ≤ s.pc.toNat → ∃ t, step s = .next t ∧ HaltFrame s .outOfRangeAccess 0 s.pc t) ∧
    (s.pc.toNat < 0xFFF → s.pc.toNat % 2 = 1 → ∃ t, step s = .next t ∧ HaltFrame s .misalignedFetch 0 s.pc t)

/-- A fetched word that the decoder does not recognize halts the machine with `UnrecognizedOpcode`, records `pc` and the
word, and leaves registers, memory, display, stack and timers as they were before the fetch. (The halted state is the
spec's decision D13, log entry 14; the unticked timers, the keypad left with the sample and the missing outputs are R129,
with D14, log entry 15; the record is D15, log entry 16.) -/
def Obligations.AnUnrecognizedWordHaltsAndIsReported : Prop :=
  ∀ (s : State) (w : Word), s.runState = .normal → s.pc.toNat < 0xFFF → s.pc.toNat % 2 = 0 →
    w = wordOfBytes (s.mem.get s.pc.toNat) (s.mem.get (s.pc.toNat + 1)) →
    decodeWord w = .error .unrecognized →
    ∃ t, step s = .next t ∧ HaltFrame s .unrecognizedOpcode w s.pc t

/-- A frame that starts halted changes nothing and gives no output (the sticky halt is the spec's decision D13, log
entry 14). -/
def Obligations.AHaltedFrameChangesNothing : Prop :=
  ∀ s : State, s.runState = .halted →
    ∃ t, step s = .next t ∧ SameMachine s t ∧ SameRunState s t ∧ t.keypad = s.keypad ∧ t.out = Outputs.quiet

/-- However many frames follow a halt, the machine stays halted with the same record and the same state (log entry 14). -/
def Obligations.NothingLeavesAHaltButReset : Prop :=
  ∀ (n : Nat) (s : State), s.runState = .halted →
    ∃ t, Sys2Proof.core.run n s = .next t ∧ SameMachine s t ∧ SameRunState s t

/-- A frame that waits for a key and sees none fetches nothing: `pc`, registers, memory, display and stack are
untouched, it stays waiting for the same register, the timers tick and the beep is given (the rest of a timer at zero is
the spec's decision D21, log entry 20). -/
def Obligations.AWaitingFrameWithoutAKeyOnlyTicks : Prop :=
  ∀ (s : State) (r : Reg), s.runState = .waitingForKey r → s.currentInput.keys = 0 →
    ∃ t, step s = .next t ∧ SameRegsBut [] s t ∧ SameMemory s t ∧ SameDisplay s t ∧ SameIndex s t ∧ t.pc = s.pc ∧
      SameStack s t ∧ SameRunState s t ∧ t.dt.toNat = s.dt.toNat - 1 ∧ t.st.toNat = s.st.toNat - 1 ∧
      t.out = ⟨decide (s.st.toNat ≠ 0), false, []⟩ ∧ (∀ k : Key, t.keypad[k.val] = false)

/-- A frame that waits and sees keys writes the lowest one to the waiting register and then does exactly what a frame
does that starts in `Normal` with that value: it fetches and executes (lowest key and same frame are the spec's
decisions D18 and D19, log entries 18 and 19). -/
def Obligations.APressedKeyResolvesTheWaitBeforeTheFetch : Prop :=
  ∀ (s : State) (r : Reg) (k : Key), s.runState = .waitingForKey r →
    s.currentInput.keys.getLsbD k.val = true →
    (∀ j : Key, j < k → s.currentInput.keys.getLsbD j.val = false) →
    step s = step ((s.setReg r (BitVec.ofNat 8 k.val)).setRunState .normal)

/-- While no key comes, for any number of frames, the machine stays suspended and the timers count down one each frame
(log entry 20 for a timer that reaches zero, log entry 1 for the list of the inputs). -/
def Obligations.AKeyWaitLastsWhileNoKeyComes : Prop :=
  ∀ (s : State) (r : Reg) (quiet rest : List FrameInput), s.runState = .waitingForKey r →
    s.inputs = quiet ++ rest → (∀ i ∈ quiet, i.keys = 0) →
    ∃ t, Sys2Proof.core.run quiet.length s = .next t ∧ SameRegsBut [] s t ∧ SameMemory s t ∧ SameDisplay s t ∧
      SameIndex s t ∧ t.pc = s.pc ∧ SameStack s t ∧ SameRunState s t ∧ t.inputs = rest ∧
      t.dt.toNat = s.dt.toNat - quiet.length ∧ t.st.toNat = s.st.toNat - quiet.length

/-- In every frame that neither starts nor ends halted, executing or waiting, each timer that the frame's instruction does
not load counts down by one and rests at zero, and the beep says whether the sound timer was nonzero before (the rest at
zero is the spec's decision D21, log entry 20). -/
def Obligations.TheTimersCountDownOnceAFrame : Prop :=
  ∀ s t : State, step s = .next t → s.running → t.running →
    ((∀ x, s.executed ≠ some (.ldDtVx x)) → t.dt.toNat = s.dt.toNat - 1) ∧
    ((∀ x, s.executed ≠ some (.ldStVx x)) →
      t.st.toNat = s.st.toNat - 1 ∧ t.out.beep = decide (s.st.toNat ≠ 0))

/-- A frame whose instruction loads a timer ticks the loaded value at once: it ends one below the register's value, and a
sound timer loaded with a nonzero value beeps in this very frame (log entry 20 for the value zero). -/
def Obligations.ALoadedTimerTicksInItsOwnFrame : Prop :=
  ∀ (s : State) (x : Reg),
    (s.executed = some (.ldDtVx x) → ∃ t, step s = .next t ∧ t.dt.toNat = (s.atPhase3.reg x).toNat - 1) ∧
    (s.executed = some (.ldStVx x) → ∃ t, step s = .next t ∧ t.st.toNat = (s.atPhase3.reg x).toNat - 1 ∧
      t.out.beep = decide ((s.atPhase3.reg x).toNat ≠ 0))

/-- The outputs of a frame: `display_clear` exactly when it executed CLS, transitions only when it executed DRW, and no
output at all when it ends halted (the quiet halt is the spec's decisions D13 and D14, log entries 14 and 15). -/
def Obligations.TheOutputsReportTheFramesInstruction : Prop :=
  ∀ s t : State, step s = .next t →
    (t.out.displayClear = true ↔ s.executed = some .cls) ∧
    (t.out.transitions ≠ [] → ∃ x y n, s.executed = some (.drw x y n)) ∧
    (t.runState = .halted → t.out = Outputs.quiet)

/-- Every frame uses up one frame's inputs, whatever it does, and each named input is that of its frame (the model's own
form of the per-frame inputs, log entry 1). -/
def Obligations.EveryFrameUsesOneInput : Prop :=
  (∀ s t : State, step s = .next t → t.inputs = s.inputs.tail ∧ t.frame = s.frame + 1) ∧
  (∀ (s : State) (i : FrameInput) (rest : List FrameInput), s.inputs = i :: rest → s.currentInput = i)

/-- No step ends in a fault or a refusal: every state has a next state, so every error the machine meets is the state
`Halted` (log entry 14). -/
def Obligations.EveryStateHasANextState : Prop := ∀ s : State, ∃ t, step s = .next t

/-- The invariant of the states between two frames is kept by every step: canonical memory, the bound of `pc`, live stack
entries that are fetchable addresses, the clear keypad, and the halt record. (The depth of the stack and the halted state
are the spec's decisions D11 and D13, log entries 12 and 14.) -/
def Obligations.EveryStepKeepsTheInvariant : Prop := ∀ s t : State, s.Inv → step s = .next t → t.Inv

/-- The reset state meets the invariant. -/
def Obligations.ResetMeetsTheInvariant : Prop := State.reset.Inv

/-! ### Halting (60_exceptions.md) -/

/-- An instruction raises exactly the cause that the rules give it in a state, and then it is the halt entry with its
own word and with `L` for a data access, `pc` otherwise, and has no other effect; when it raises nothing it leaves the
machine running. The five causes have the codes 1 to 5 in `halt_cause`, and 0 stands for none. (Decisions D11, D13 to
D15, D27 to D29 of the spec: log entries 12, 14 to 16, 26 and 27.) -/
def Obligations.AnInstructionHaltsExactlyWhenItRaises : Prop :=
  (HaltCause.none.code = 0 ∧ HaltCause.unrecognizedOpcode.code = 1 ∧ HaltCause.outOfRangeAccess.code = 2 ∧
    HaltCause.emptyCallStackReturn.code = 3 ∧ HaltCause.misalignedFetch.code = 4 ∧ HaltCause.stackOverflow.code = 5) ∧
  ∀ (i : Instr) (s : State), s.running →
    (∀ c, raises i s = some c → ∃ t, exec i s = .next t ∧
      HaltEntry s c (encode i) (if c = .outOfRangeAccess then s.l else s.pc) t) ∧
    (raises i s = none → ∃ t, exec i s = .next t ∧ t.running)

/-- A frame that starts in `Normal` and ends halted has had no other effect: the program's view is that of before the
fetch, and no output is given (the spec's decisions D13 and D14, log entries 14 and 15). -/
def Obligations.AFrameThatHaltsHasNoOtherEffect : Prop :=
  ∀ s t : State, s.runState = .normal → step s = .next t → t.runState = .halted →
    HaltFrame s t.haltCause t.haltWord t.haltAddr t

/-- The run-state changes only as the rules say: a halt is left by nothing, a wait is entered only by executing LD Vx,K
and kept only by a frame that executes nothing, and a running machine halts only when a fetch or decode fails or its
instruction raises. (`Halted` is the spec's decision D13, log entry 14; a resolved wait executes in the same frame, log
entry 19.) -/
def Obligations.TheRunStateChangesOnlyAsTheRulesSay : Prop :=
  ∀ s t : State, step s = .next t →
    (s.runState = .halted → t.runState = .halted) ∧
    (∀ r, t.runState = .waitingForKey r →
      (s.runState = .waitingForKey r ∧ s.executed = none) ∨ s.executed = some (.ldVxK r)) ∧
    (t.runState = .halted → s.running → s.atPhase3.runState = .normal ∧
      (s.executed = none ∨ ∃ i c, s.executed = some i ∧ raises i s.atPhase3 = some c))

/-! ### Reset (10_state.md, 70_reset_and_hazards.md) -/

/-- The reset state holds the values of the reset table, the 80 font bytes, and zeros above them to 0xFFF. The zero
registers, the font bytes and the zeros of 0x050 to 0x1FF are the spec's decisions D10, D6 and D7 (log entries 10, 6 and
7); nothing is said of the stack entries. -/
def Obligations.ResetLeavesTheValuesOfTheResetTable : Prop :=
  (∀ r : Reg, State.reset.reg r = 0) ∧ State.reset.l = 0 ∧ State.reset.pc = 0x200 ∧ State.reset.sp = 0 ∧
  State.reset.dt = 0 ∧ State.reset.st = 0 ∧ State.reset.runState = .normal ∧ State.reset.haltCause = .none ∧
  State.reset.haltCause.code = 0 ∧ State.reset.haltWord = 0 ∧ State.reset.haltAddr = 0 ∧
  (∀ (r : Fin 32) (c : Fin 64), State.reset.disp.pixel r c = false) ∧
  (∀ k : Key, State.reset.keypad[k.val] = false) ∧
  ((List.range 80).map State.reset.mem.get =
    [0xF0, 0x90, 0x90, 0x90, 0xF0, 0x20, 0x60, 0x20, 0x20, 0x70, 0xF0, 0x10, 0xF0, 0x80, 0xF0, 0xF0, 0x10, 0xF0, 0x10,
     0xF0] ++
    [0x90, 0x90, 0xF0, 0x10, 0x10, 0xF0, 0x80, 0xF0, 0x10, 0xF0, 0xF0, 0x80, 0xF0, 0x90, 0xF0, 0xF0, 0x10, 0x20, 0x40,
     0x40] ++
    [0xF0, 0x90, 0xF0, 0x90, 0xF0, 0xF0, 0x90, 0xF0, 0x10, 0xF0, 0xF0, 0x90, 0xF0, 0x90, 0x90, 0xE0, 0x90, 0xE0, 0x90,
     0xE0] ++
    [0xF0, 0x80, 0x80, 0x80, 0xF0, 0xE0, 0x90, 0x90, 0x90, 0xE0, 0xF0, 0x80, 0xF0, 0x80, 0xF0, 0xF0, 0x80, 0xF0, 0x80,
     0x80]) ∧
  (∀ a : Nat, 80 ≤ a → a < 4096 → State.reset.mem.get a = 0)

/-- Reset with a ROM image that fits gives the reset state with the image at 0x200 and every other byte at its reset
content, in canonical form; an image of more than 3584 bytes is refused (the spec's decision D9, log entry 9; the reset
values are those of ResetLeavesTheValuesOfTheResetTable). -/
def Obligations.ResetPlacesTheImageOrRefusesIt : Prop :=
  ∀ rom : List Byte,
    (rom.length ≤ 3584 → ∃ s, State.resetWith rom = .next s ∧ s = { State.reset with mem := s.mem } ∧
      s.mem.wf = true ∧ (∀ (i : Nat) (h : i < rom.length), s.mem.get (0x200 + i) = rom[i]) ∧
      (∀ a : Nat, a < 0x200 ∨ 0x200 + rom.length ≤ a → s.mem.get a = State.reset.mem.get a)) ∧
    (3584 < rom.length → State.resetWith rom = .refused .romTooLong)

/-! ### The whole machine -/

/-- No instruction writes a general register outside its row of the table of register writers; in particular only the
arithmetic with a flag, the shifts and DRW write `VF` without naming it (no flag after OR, AND, XOR and CLS is the spec's
decision D22, log entry 21). -/
def Obligations.OnlyTheRegistersOfTheTableAreWritten : Prop :=
  ∀ (i : Instr) (s t : State), exec i s = .next t → SameRegsBut (destRegs i) s t

/-- Memory is written only by LD [L],Vx, the display and the display outputs only by CLS and DRW, the call stack only by
CALL and RET, `L` only by its three instructions, `DT` and `ST` each only by its load, and the inputs by none. (That bulk
transfers keep `L` is the spec's decision D26, log entry 25.) -/
def Obligations.EachStoreIsWrittenOnlyByItsInstructions : Prop :=
  ∀ (i : Instr) (s t : State), exec i s = .next t →
    ((∀ x, i ≠ .ldMemVx x) → SameMemory s t) ∧
    (i ≠ .cls → (∀ x y n, i ≠ .drw x y n) → SameDisplay s t ∧ SameOutputs s t) ∧
    (i ≠ .ret → (∀ nnn, i ≠ .call nnn) → SameStack s t) ∧
    ((∀ nnn, i ≠ .ldL nnn) → (∀ x, i ≠ .addLVx x) → (∀ x, i ≠ .ldFVx x) → SameIndex s t) ∧
    ((∀ x, i ≠ .ldDtVx x) → t.dt = s.dt) ∧ ((∀ x, i ≠ .ldStVx x) → t.st = s.st) ∧ SameInputs s t

/-- The random byte reaches only RND, and the keypad only SKP and SKNP: any other instruction does the same whatever
they are (the explicit inputs are the spec's decisions D16 and D33, log entries 17 and 30). -/
def Obligations.InputsReachOnlyTheirInstructions : Prop :=
  ∀ (i : Instr) (s t : State), exec i s = .next t →
    ((∀ x kk, i ≠ .rnd x kk) → ∀ (ins : List FrameInput) (f : Nat),
      exec i { s with inputs := ins, frame := f } = .next { t with inputs := ins, frame := f }) ∧
    ((∀ x, i ≠ .skp x) → (∀ x, i ≠ .sknp x) → ∀ keypad : Vector Bool 16,
      exec i { s with keypad := keypad } = .next { t with keypad := keypad })

/-! ### Control flow (41_control_flow.md) -/

/-- SYS nnn is a no-operation that advances `pc` by 2, whatever `nnn` is. -/
def Obligations.SysOnlyAdvances : Prop :=
  ∀ (nnn : Addr) (s : State), ∃ t, exec (.sys nnn) s = .next t ∧ t.pc = s.pc + 2 ∧ OnlyRegsAndPc [] s t

/-- RET pops the most recent entry and resumes one word past it, its storage keeping its value; with an empty stack it
halts with `EmptyCallStackReturn` and nothing else changes (the halted state, the precise halt and the record are the
spec's decisions D13 to D15, log entries 14 to 16). -/
def Obligations.ReturnResumesAfterTheCall : Prop :=
  ∀ s : State,
    (∀ h : 0 < s.sp.val, ∃ t, exec .ret s = .next t ∧ t.sp.val = s.sp.val - 1 ∧
      t.pc = s.stack[s.sp.val - 1]'(by have := s.sp.isLt; omega) + 2 ∧ t.stack = s.stack ∧
      SameRegsBut [] s t ∧ SameMemory s t ∧ SameDisplay s t ∧ SameIndex s t ∧ SameTimers s t ∧ SameRunState s t ∧
      SameInputs s t ∧ SameOutputs s t) ∧
    (s.sp.val = 0 → ∃ t, exec .ret s = .next t ∧ HaltEntry s .emptyCallStackReturn 0x00EE s.pc t)

/-- JP nnn sets `pc` to the zero-extended address and changes nothing else. -/
def Obligations.JumpSetsThePc : Prop :=
  ∀ (nnn : Addr) (s : State), ∃ t, exec (.jp nnn) s = .next t ∧ t.pc.toNat = nnn.toNat ∧ OnlyRegsAndPc [] s t

/-- CALL nnn pushes its own address and jumps; with sixteen live entries it halts with `StackOverflow` and nothing else
changes (the depth and the halt are the spec's decision D11, log entry 12; the halted state, the precise halt and the
record its D13 to D15, log entries 14 to 16). -/
def Obligations.CallPushesItsOwnAddress : Prop :=
  ∀ (nnn : Addr) (s : State),
    (s.sp.val < 16 → ∃ t, exec (.call nnn) s = .next t ∧ t.pc.toNat = nnn.toNat ∧ t.sp.val = s.sp.val + 1 ∧
      (∀ j : Fin 16, t.stack[j.val] = if j.val = s.sp.val then s.pc else s.stack[j.val]) ∧
      SameRegsBut [] s t ∧ SameMemory s t ∧ SameDisplay s t ∧ SameIndex s t ∧ SameTimers s t ∧ SameRunState s t ∧
      SameInputs s t ∧ SameOutputs s t) ∧
    (s.sp.val = 16 → ∃ t, exec (.call nnn) s = .next t ∧
      HaltEntry s .stackOverflow (BitVec.ofNat 16 (0x2000 + nnn.toNat)) s.pc t)

/-- A call followed by a return leaves `pc` one word past the call and the depth of the stack as it was, however the
state between was changed apart from the stack (the source's property of section 8; a free entry is needed, log entry 12). -/
def Obligations.CallThenReturnComesBack : Prop :=
  ∀ (nnn : Addr) (s t u : State), s.sp.val < 16 → exec (.call nnn) s = .next t → SameStack t u →
    ∃ v, exec .ret u = .next v ∧ v.pc = s.pc + 2 ∧ v.sp = s.sp ∧
      (∀ j : Fin 16, j.val < s.sp.val → v.stack[j.val] = s.stack[j.val])

/-- SE Vx,kk skips exactly when the register equals the literal, SNE Vx,kk exactly when it does not; nothing but `pc`
changes. -/
def Obligations.SkipsOnALiteral : Prop :=
  ∀ (x : Reg) (kk : Byte) (s : State),
    (∃ t, exec (.seImm x kk) s = .next t ∧
      t.pc = (if (s.reg x).toNat = kk.toNat then s.pc + 4 else s.pc + 2) ∧ OnlyRegsAndPc [] s t) ∧
    (∃ t, exec (.sneImm x kk) s = .next t ∧
      t.pc = (if (s.reg x).toNat = kk.toNat then s.pc + 2 else s.pc + 4) ∧ OnlyRegsAndPc [] s t)

/-- SE Vx,Vy skips exactly when the two registers are equal, SNE Vx,Vy exactly when they are not; nothing but `pc`
changes. -/
def Obligations.SkipsOnTwoRegisters : Prop :=
  ∀ (x y : Reg) (s : State),
    (∃ t, exec (.seReg x y) s = .next t ∧
      t.pc = (if (s.reg x).toNat = (s.reg y).toNat then s.pc + 4 else s.pc + 2) ∧ OnlyRegsAndPc [] s t) ∧
    (∃ t, exec (.sneReg x y) s = .next t ∧
      t.pc = (if (s.reg x).toNat = (s.reg y).toNat then s.pc + 2 else s.pc + 4) ∧ OnlyRegsAndPc [] s t)

/-- JP V0,nnn sets `pc` to the sum of the address and `V0`, not reduced (the spec's decision D32, log entry 29). -/
def Obligations.JumpOffsetByV0 : Prop :=
  ∀ (nnn : Addr) (s : State), ∃ t, exec (.jpV0 nnn) s = .next t ∧
    t.pc.toNat = nnn.toNat + (s.reg 0).toNat ∧ OnlyRegsAndPc [] s t

/-- SKP Vx skips exactly when the register names a key of the keypad and that key is pressed, SKNP Vx exactly when not; a
value of 16 or more names no key (the spec's decisions D16 and D17, log entry 17). -/
def Obligations.SkipsOnAKey : Prop :=
  ∀ (x : Reg) (s : State), ∃ t u, exec (.skp x) s = .next t ∧ exec (.sknp x) s = .next u ∧
    OnlyRegsAndPc [] s t ∧ OnlyRegsAndPc [] s u ∧
    (∀ h : (s.reg x).toNat < 16, s.keypad[(s.reg x).toNat] = true → t.pc = s.pc + 4 ∧ u.pc = s.pc + 2) ∧
    (∀ h : (s.reg x).toNat < 16, s.keypad[(s.reg x).toNat] = false → t.pc = s.pc + 2 ∧ u.pc = s.pc + 4) ∧
    (16 ≤ (s.reg x).toNat → t.pc = s.pc + 2 ∧ u.pc = s.pc + 4)

/-! ### Register operations (42_register_ops.md) -/

/-- LD Vx,kk and LD Vx,Vy write the literal and the other register's value, and nothing else but `pc`. -/
def Obligations.LoadsWriteOnlyTheirRegister : Prop :=
  ∀ (x y : Reg) (kk : Byte) (s : State),
    (∃ t, exec (.ldImm x kk) s = .next t ∧ t.reg x = kk ∧ t.pc = s.pc + 2 ∧ OnlyRegsAndPc [x] s t) ∧
    (∃ t, exec (.ldReg x y) s = .next t ∧ t.reg x = s.reg y ∧ t.pc = s.pc + 2 ∧ OnlyRegsAndPc [x] s t)

/-- ADD Vx,kk adds modulo 256 and writes no flag: `VF` keeps its value unless it is the destination. -/
def Obligations.AddLiteralWrapsWithoutAFlag : Prop :=
  ∀ (x : Reg) (kk : Byte) (s : State), ∃ t, exec (.addImm x kk) s = .next t ∧
    (t.reg x).toNat = ((s.reg x).toNat + kk.toNat) % 256 ∧ t.pc = s.pc + 2 ∧ OnlyRegsAndPc [x] s t

/-- OR, AND and XOR combine the two registers bit by bit into `V[x]` and write nothing else; `VF` is no flag of theirs
(the spec's decision D22, log entry 21). -/
def Obligations.LogicCombinesBitByBit : Prop :=
  ∀ (x y : Reg) (s : State),
    (∃ t, exec (.orReg x y) s = .next t ∧ t.pc = s.pc + 2 ∧ OnlyRegsAndPc [x] s t ∧
      ∀ b : Fin 8, (t.reg x).getLsbD b.val = ((s.reg x).getLsbD b.val || (s.reg y).getLsbD b.val)) ∧
    (∃ t, exec (.andReg x y) s = .next t ∧ t.pc = s.pc + 2 ∧ OnlyRegsAndPc [x] s t ∧
      ∀ b : Fin 8, (t.reg x).getLsbD b.val = ((s.reg x).getLsbD b.val && (s.reg y).getLsbD b.val)) ∧
    (∃ t, exec (.xorReg x y) s = .next t ∧ t.pc = s.pc + 2 ∧ OnlyRegsAndPc [x] s t ∧
      ∀ b : Fin 8, (t.reg x).getLsbD b.val = ((s.reg x).getLsbD b.val != (s.reg y).getLsbD b.val))

/-- ADD Vx,Vy writes the sum modulo 256 to `V[x]` and the carry to `VF`, from the operands as they were; with `x = 15`
the carry is what `VF` holds (the order of the two writes is the spec's decision D24, log entry 23). -/
def Obligations.AddWritesTheSumAndTheCarry : Prop :=
  ∀ (x y : Reg) (s : State), ∃ t, exec (.addReg x y) s = .next t ∧
    (x ≠ 15 → (t.reg x).toNat = ((s.reg x).toNat + (s.reg y).toNat) % 256) ∧
    (t.reg 15).toNat = (if (s.reg x).toNat + (s.reg y).toNat ≥ 256 then 1 else 0) ∧
    t.pc = s.pc + 2 ∧ OnlyRegsAndPc [x, 15] s t

/-- SUB writes `V[x] - V[y]` and SUBN `V[y] - V[x]`, modulo 256, to `V[x]`, and 1 to `VF` exactly when no borrow occurred;
with `x = 15` the flag is what `VF` holds (the spec's decision D24, log entry 23). -/
def Obligations.SubtractionsWriteTheDifferenceAndNotBorrow : Prop :=
  ∀ (x y : Reg) (s : State),
    (∃ t, exec (.sub x y) s = .next t ∧
      (x ≠ 15 → (t.reg x).toNat = ((s.reg x).toNat + 256 - (s.reg y).toNat) % 256) ∧
      (t.reg 15).toNat = (if (s.reg x).toNat ≥ (s.reg y).toNat then 1 else 0) ∧
      t.pc = s.pc + 2 ∧ OnlyRegsAndPc [x, 15] s t) ∧
    (∃ t, exec (.subn x y) s = .next t ∧
      (x ≠ 15 → (t.reg x).toNat = ((s.reg y).toNat + 256 - (s.reg x).toNat) % 256) ∧
      (t.reg 15).toNat = (if (s.reg y).toNat ≥ (s.reg x).toNat then 1 else 0) ∧
      t.pc = s.pc + 2 ∧ OnlyRegsAndPc [x, 15] s t)

/-- SHR and SHL shift `V[x]` in place by one and write the bit shifted out to `VF`, whatever the ignored `y` is; with
`x = 15` the flag is what `VF` holds (the spec's decisions D23 and D24, log entries 22 and 23). -/
def Obligations.ShiftsWriteTheBitShiftedOut : Prop :=
  ∀ (x y : Reg) (s : State),
    (∃ t, exec (.shr x y) s = .next t ∧ (x ≠ 15 → (t.reg x).toNat = (s.reg x).toNat / 2) ∧
      (t.reg 15).toNat = (s.reg x).toNat % 2 ∧ t.pc = s.pc + 2 ∧ OnlyRegsAndPc [x, 15] s t) ∧
    (∃ t, exec (.shl x y) s = .next t ∧ (x ≠ 15 → (t.reg x).toNat = (s.reg x).toNat * 2 % 256) ∧
      (t.reg 15).toNat = (s.reg x).toNat / 128 ∧ t.pc = s.pc + 2 ∧ OnlyRegsAndPc [x, 15] s t)

/-- RND Vx,kk writes the frame's random byte under the mask `kk`, whatever the byte is: every bit outside `kk` is 0, every
bit inside it is that of the input (the free input is the spec's decision D33, log entries 1 and 30). -/
def Obligations.RandomByteIsMasked : Prop :=
  ∀ (x : Reg) (kk : Byte) (s : State), ∃ t, exec (.rnd x kk) s = .next t ∧ t.pc = s.pc + 2 ∧ OnlyRegsAndPc [x] s t ∧
    ∀ b : Fin 8, (t.reg x).getLsbD b.val = if kk.getLsbD b.val then s.currentInput.rnd.getLsbD b.val else false

/-! ### Index register and memory (43_index_memory.md) -/

/-- LD L,nnn sets `L` to the zero-extended address; ADD L,Vx adds the register modulo 65536 and does not write `VF`. -/
def Obligations.IndexLoadAndAdd : Prop :=
  ∀ (nnn : Addr) (x : Reg) (s : State),
    (∃ t, exec (.ldL nnn) s = .next t ∧ t.l.toNat = nnn.toNat ∧ t.pc = s.pc + 2 ∧ SameRegsBut [] s t ∧
      SameMemory s t ∧ SameDisplay s t ∧ SameTimers s t ∧ SameStack s t ∧ SameRunState s t ∧ SameInputs s t ∧
      SameOutputs s t) ∧
    (∃ t, exec (.addLVx x) s = .next t ∧ t.l.toNat = (s.l.toNat + (s.reg x).toNat) % 65536 ∧ t.pc = s.pc + 2 ∧
      SameRegsBut [] s t ∧ SameMemory s t ∧ SameDisplay s t ∧ SameTimers s t ∧ SameStack s t ∧ SameRunState s t ∧
      SameInputs s t ∧ SameOutputs s t)

/-- LD F,Vx sets `L` to five times the register's value, not masked for values above 15 (the spec's decision D25, log
entry 24). -/
def Obligations.IndexOfAGlyph : Prop :=
  ∀ (x : Reg) (s : State), ∃ t, exec (.ldFVx x) s = .next t ∧ t.l.toNat = (s.reg x).toNat * 5 ∧ t.pc = s.pc + 2 ∧
    SameRegsBut [] s t ∧ SameMemory s t ∧ SameDisplay s t ∧ SameTimers s t ∧ SameStack s t ∧ SameRunState s t ∧
    SameInputs s t ∧ SameOutputs s t

/-- LD [L],Vx stores `V[0]` to `V[x]` in the `x + 1` bytes at `L`, every other byte of memory reads as before, and `L` and
the registers keep their values (the unchanged `L` and the whole-span check are the spec's decisions D26 and D27, log
entries 25 and 26). Memory is taken in its canonical form, which every step keeps (EveryStepKeepsTheInvariant). -/
def Obligations.DumpStoresTheRegistersAtL : Prop :=
  ∀ (x : Reg) (s : State), s.mem.wf = true → s.l.toNat + x.val + 1 ≤ 4096 → ∃ t, exec (.ldMemVx x) s = .next t ∧
    (∀ i : Reg, i ≤ x → t.mem.get (s.l.toNat + i.val) = s.reg i) ∧
    (∀ a : Nat, a < s.l.toNat ∨ s.l.toNat + x.val < a → t.mem.get a = s.mem.get a) ∧
    t.pc = s.pc + 2 ∧ SameRegsBut [] s t ∧ SameDisplay s t ∧ SameIndex s t ∧ SameTimers s t ∧ SameStack s t ∧
    SameRunState s t ∧ SameInputs s t ∧ SameOutputs s t

/-- LD Vx,[L] loads `V[0]` to `V[x]` from the bytes at `L` and leaves the registers above `x`, `L` and memory as they were
(the spec's decisions D26 and D27, log entries 25 and 26). -/
def Obligations.LoadReadsTheRegistersFromL : Prop :=
  ∀ (x : Reg) (s : State), s.l.toNat + x.val + 1 ≤ 4096 → ∃ t, exec (.ldVxMem x) s = .next t ∧
    (∀ i : Reg, i ≤ x → t.reg i = s.mem.get (s.l.toNat + i.val)) ∧ (∀ i : Reg, x < i → t.reg i = s.reg i) ∧
    t.pc = s.pc + 2 ∧ SameMemory s t ∧ SameDisplay s t ∧ SameIndex s t ∧ SameTimers s t ∧ SameStack s t ∧
    SameRunState s t ∧ SameInputs s t ∧ SameOutputs s t

/-- A load from the same base restores what a dump stored, whatever happened to the registers in between (the source's
scenario of section 8; log entry 25; memory in its canonical form, as in DumpStoresTheRegistersAtL). -/
def Obligations.DumpThenLoadRestoresTheRegisters : Prop :=
  ∀ (x : Reg) (s t u : State), s.mem.wf = true → s.l.toNat + x.val + 1 ≤ 4096 → exec (.ldMemVx x) s = .next t →
    SameMemory t u → SameIndex t u →
    ∃ v, exec (.ldVxMem x) u = .next v ∧ ∀ i : Reg, i ≤ x → v.reg i = s.reg i

/-- A dump, a load or a draw of at least one row whose span leaves memory halts with `OutOfRangeAccess`, records its own
word and `L`, and changes nothing else (the whole-span check is the spec's decisions D27 and D29, log entries 26 and 27;
the halted state, the precise halt and the record are its D13 to D15, log entries 14 to 16). -/
def Obligations.TransfersThatLeaveMemoryHalt : Prop :=
  ∀ (x y : Reg) (n : Count) (s : State),
    (s.l.toNat + x.val + 1 > 4096 →
      (∃ t, exec (.ldMemVx x) s = .next t ∧
        HaltEntry s .outOfRangeAccess (BitVec.ofNat 16 (0xF055 + x.val * 0x100)) s.l t) ∧
      (∃ t, exec (.ldVxMem x) s = .next t ∧
        HaltEntry s .outOfRangeAccess (BitVec.ofNat 16 (0xF065 + x.val * 0x100)) s.l t)) ∧
    (n.val ≥ 1 → s.l.toNat + n.val > 4096 → ∃ t, exec (.drw x y n) s = .next t ∧
      HaltEntry s .outOfRangeAccess (BitVec.ofNat 16 (0xD000 + x.val * 0x100 + y.val * 0x10 + n.val)) s.l t)

/-! ### Timers and key wait (44_timer_key.md) -/

/-- LD Vx,DT copies the delay timer to a register; LD DT,Vx and LD ST,Vx copy a register to a timer; each changes nothing
else but `pc` when it executes (the tick of the same frame is a phase of its own). -/
def Obligations.TimerCopiesChangeNothingElse : Prop :=
  ∀ (x : Reg) (s : State),
    (∃ t, exec (.ldVxDt x) s = .next t ∧ t.reg x = s.dt ∧ t.pc = s.pc + 2 ∧ OnlyRegsAndPc [x] s t) ∧
    (∃ t, exec (.ldDtVx x) s = .next t ∧ t.dt = s.reg x ∧ t.st = s.st ∧ t.pc = s.pc + 2 ∧ SameRegsBut [] s t ∧
      SameMemory s t ∧ SameDisplay s t ∧ SameIndex s t ∧ SameStack s t ∧ SameRunState s t ∧ SameInputs s t ∧
      SameOutputs s t) ∧
    (∃ t, exec (.ldStVx x) s = .next t ∧ t.st = s.reg x ∧ t.dt = s.dt ∧ t.pc = s.pc + 2 ∧ SameRegsBut [] s t ∧
      SameMemory s t ∧ SameDisplay s t ∧ SameIndex s t ∧ SameStack s t ∧ SameRunState s t ∧ SameInputs s t ∧
      SameOutputs s t)

/-- LD Vx,K arms the wait and advances `pc`, and writes no register; the frame that executes it ends waiting, whatever
keys it saw (the earliest resolving frame is the next one, the spec's decision D20, log entry 19). -/
def Obligations.KeyWaitIsArmedAndNotResolvedAtOnce : Prop :=
  (∀ (x : Reg) (s : State), ∃ t, exec (.ldVxK x) s = .next t ∧ t.runState = .waitingForKey x ∧ t.pc = s.pc + 2 ∧
    SameRegsBut [] s t ∧ SameMemory s t ∧ SameDisplay s t ∧ SameIndex s t ∧ SameTimers s t ∧ SameStack s t ∧
    SameHaltRecord s t ∧ SameInputs s t ∧ SameOutputs s t) ∧
  (∀ (x : Reg) (s : State), s.runState = .normal → s.executed = some (.ldVxK x) →
    ∃ t, step s = .next t ∧ t.runState = .waitingForKey x ∧ t.pc = s.pc + 2 ∧ SameRegsBut [] s t)

/-! ### Display (45_display.md) -/

/-- CLS unsets every pixel, reports it on `display_clear` and as no transition, and leaves `VF` and everything else (the
unchanged `VF` is the spec's decision D22, log entry 21). -/
def Obligations.ClearUnsetsEveryPixel : Prop :=
  ∀ s : State, ∃ t, exec .cls s = .next t ∧ (∀ (r : Fin 32) (c : Fin 64), t.disp.pixel r c = false) ∧
    t.out.displayClear = true ∧ t.out.transitions = s.out.transitions ∧ t.out.beep = s.out.beep ∧ t.pc = s.pc + 2 ∧
    SameRegsBut [] s t ∧ SameMemory s t ∧ SameIndex s t ∧ SameTimers s t ∧ SameStack s t ∧ SameRunState s t ∧
    SameInputs s t

/-- DRW Vx,Vy,n flips exactly the pixels that a set bit of the sprite at `L` lands on, with horizontal wrap and vertical
clipping, and leaves `VF` at 1 exactly when one of them was set, else at 0; nothing else changes. A draw of no rows draws
nothing and clears `VF`. (Decisions D28 to D30 of the spec: log entries 27 and 28.) -/
def Obligations.DrawFlipsExactlyTheSpritesPixels : Prop :=
  ∀ (x y : Reg) (n : Count) (s : State), n.val = 0 ∨ s.l.toNat + n.val ≤ 4096 →
    ∃ t, exec (.drw x y n) s = .next t ∧
      (∀ (r : Fin 32) (c : Fin 64), t.disp.pixel r c = (s.disp.pixel r c != s.drawCovers x y n r c)) ∧
      (t.reg 15 = 0 ∨ t.reg 15 = 1) ∧
      (t.reg 15 = 1 ↔ ∃ (r : Fin 32) (c : Fin 64), s.drawCovers x y n r c = true ∧ s.disp.pixel r c = true) ∧
      t.pc = s.pc + 2 ∧ SameRegsBut [15] s t ∧ SameMemory s t ∧ SameIndex s t ∧ SameTimers s t ∧ SameStack s t ∧
      SameRunState s t ∧ SameInputs s t ∧ t.out.beep = s.out.beep ∧ t.out.displayClear = s.out.displayClear

/-- The transitions of a draw: each flipped pixel once, `Erased` if it was set and `Drawn` if not, rows top to bottom and
within a row by sprite column (the order is the spec's decision D31, log entry 28). -/
def Obligations.DrawReportsEachFlippedPixelOnceInOrder : Prop :=
  ∀ (x y : Reg) (n : Count) (s : State), n.val = 0 ∨ s.l.toNat + n.val ≤ 4096 →
    ∃ t, exec (.drw x y n) s = .next t ∧
      (∀ tr : Transition, tr ∈ t.out.transitions ↔ s.drawCovers x y n tr.y tr.x = true ∧
        tr.kind = (if s.disp.pixel tr.y tr.x = true then .erased else .drawn)) ∧
      t.out.transitions.Pairwise fun a b =>
        a.y < b.y ∨ (a.y = b.y ∧ spriteColumn ((s.reg x).toNat % 64) a.x < spriteColumn ((s.reg x).toNat % 64) b.x)

/-- Drawing the same sprite twice at the same position returns the display to its prior state, and the second draw reports
the same pixels in the same order with the opposite kinds. That the coordinate registers read the same at the second draw
holds of itself unless one of them is `VF`. -/
def Obligations.DrawingTwiceRestoresTheDisplay : Prop :=
  ∀ (x y : Reg) (n : Count) (s t : State), n.val = 0 ∨ s.l.toNat + n.val ≤ 4096 →
    exec (.drw x y n) s = .next t → t.reg x = s.reg x → t.reg y = s.reg y →
    ∃ u, exec (.drw x y n) t = .next u ∧ SameDisplay s u ∧
      u.out.transitions = t.out.transitions.map fun tr =>
        { tr with kind := match tr.kind with | .drawn => .erased | .erased => .drawn }

/-! ### The program counter and the instruction stream (10_state.md R25, 20_memory.md R75) -/

/-- Every instruction that does not halt moves `pc` on by one word, or by two where it is a skip whose condition holds,
except RET, JP, CALL and JP V0, which set it (a key index of 16 or more is the spec's decision D17, log entry 17). -/
def Obligations.EveryOtherInstructionMovesPcOnByOneWordOrTwo : Prop :=
  ∀ (i : Instr) (s t : State), s.running → exec i s = .next t → t.running → setsPc i = false →
    (skips i s → t.pc = s.pc + 4) ∧ (¬ skips i s → t.pc = s.pc + 2)

/-- A dump over the instruction that follows it is what the very next fetch reads: the first two registers, `V0` as the
high byte (the byte order is the spec's decision D2, log entry 4; memory in its canonical form, as in
DumpStoresTheRegistersAtL). -/
def Obligations.AStoreIsSeenByTheNextFetch : Prop :=
  ∀ (x : Reg) (s : State), s.mem.wf = true → s.pc.toNat % 2 = 0 → s.l = s.pc + 2 → s.pc.toNat + 2 + x.val < 4096 →
    1 ≤ x.val → ∃ t, exec (.ldMemVx x) s = .next t ∧ t.fetch = .ok (wordOfBytes (s.reg 0) (s.reg 1))
end

