-- ==== Sys2Proof/Laws/State.lean ====
section
/-! SUPPORT. For each named update of the state, what every field of the result is: one lemma a field, true by
unfolding, so that no proof unfolds a record update. And reading a register after one is written. -/

namespace Sys2Proof.Machine

/-! ### setReg -/

@[simp] theorem State.setReg_v (s : State) (x : Reg) (b : Byte) : (s.setReg x b).v = s.v.set x.val b := rfl
@[simp] theorem State.setReg_l (s : State) (x : Reg) (b : Byte) : (s.setReg x b).l = s.l := rfl
@[simp] theorem State.setReg_pc (s : State) (x : Reg) (b : Byte) : (s.setReg x b).pc = s.pc := rfl
@[simp] theorem State.setReg_sp (s : State) (x : Reg) (b : Byte) : (s.setReg x b).sp = s.sp := rfl
@[simp] theorem State.setReg_stack (s : State) (x : Reg) (b : Byte) : (s.setReg x b).stack = s.stack := rfl
@[simp] theorem State.setReg_dt (s : State) (x : Reg) (b : Byte) : (s.setReg x b).dt = s.dt := rfl
@[simp] theorem State.setReg_st (s : State) (x : Reg) (b : Byte) : (s.setReg x b).st = s.st := rfl
@[simp] theorem State.setReg_runState (s : State) (x : Reg) (b : Byte) : (s.setReg x b).runState = s.runState := rfl
@[simp] theorem State.setReg_haltCause (s : State) (x : Reg) (b : Byte) : (s.setReg x b).haltCause = s.haltCause := rfl
@[simp] theorem State.setReg_haltWord (s : State) (x : Reg) (b : Byte) : (s.setReg x b).haltWord = s.haltWord := rfl
@[simp] theorem State.setReg_haltAddr (s : State) (x : Reg) (b : Byte) : (s.setReg x b).haltAddr = s.haltAddr := rfl
@[simp] theorem State.setReg_mem (s : State) (x : Reg) (b : Byte) : (s.setReg x b).mem = s.mem := rfl
@[simp] theorem State.setReg_disp (s : State) (x : Reg) (b : Byte) : (s.setReg x b).disp = s.disp := rfl
@[simp] theorem State.setReg_keypad (s : State) (x : Reg) (b : Byte) : (s.setReg x b).keypad = s.keypad := rfl
@[simp] theorem State.setReg_inputs (s : State) (x : Reg) (b : Byte) : (s.setReg x b).inputs = s.inputs := rfl
@[simp] theorem State.setReg_frame (s : State) (x : Reg) (b : Byte) : (s.setReg x b).frame = s.frame := rfl
@[simp] theorem State.setReg_out (s : State) (x : Reg) (b : Byte) : (s.setReg x b).out = s.out := rfl

/-! ### setRegs -/

@[simp] theorem State.setRegs_l (s : State) (bs : List Byte) : (s.setRegs bs).l = s.l := by simp only [State.setRegs]
@[simp] theorem State.setRegs_pc (s : State) (bs : List Byte) : (s.setRegs bs).pc = s.pc := by simp only [State.setRegs]
@[simp] theorem State.setRegs_sp (s : State) (bs : List Byte) : (s.setRegs bs).sp = s.sp := by simp only [State.setRegs]
@[simp] theorem State.setRegs_stack (s : State) (bs : List Byte) : (s.setRegs bs).stack = s.stack := by simp only [State.setRegs]
@[simp] theorem State.setRegs_dt (s : State) (bs : List Byte) : (s.setRegs bs).dt = s.dt := by simp only [State.setRegs]
@[simp] theorem State.setRegs_st (s : State) (bs : List Byte) : (s.setRegs bs).st = s.st := by simp only [State.setRegs]
@[simp] theorem State.setRegs_runState (s : State) (bs : List Byte) : (s.setRegs bs).runState = s.runState := by simp only [State.setRegs]
@[simp] theorem State.setRegs_haltCause (s : State) (bs : List Byte) : (s.setRegs bs).haltCause = s.haltCause := by simp only [State.setRegs]
@[simp] theorem State.setRegs_haltWord (s : State) (bs : List Byte) : (s.setRegs bs).haltWord = s.haltWord := by simp only [State.setRegs]
@[simp] theorem State.setRegs_haltAddr (s : State) (bs : List Byte) : (s.setRegs bs).haltAddr = s.haltAddr := by simp only [State.setRegs]
@[simp] theorem State.setRegs_mem (s : State) (bs : List Byte) : (s.setRegs bs).mem = s.mem := by simp only [State.setRegs]
@[simp] theorem State.setRegs_disp (s : State) (bs : List Byte) : (s.setRegs bs).disp = s.disp := by simp only [State.setRegs]
@[simp] theorem State.setRegs_keypad (s : State) (bs : List Byte) : (s.setRegs bs).keypad = s.keypad := by simp only [State.setRegs]
@[simp] theorem State.setRegs_inputs (s : State) (bs : List Byte) : (s.setRegs bs).inputs = s.inputs := by simp only [State.setRegs]
@[simp] theorem State.setRegs_frame (s : State) (bs : List Byte) : (s.setRegs bs).frame = s.frame := by simp only [State.setRegs]
@[simp] theorem State.setRegs_out (s : State) (bs : List Byte) : (s.setRegs bs).out = s.out := by simp only [State.setRegs]

/-! ### setL -/

@[simp] theorem State.setL_v (s : State) (a : Word) : (s.setL a).v = s.v := rfl
@[simp] theorem State.setL_l (s : State) (a : Word) : (s.setL a).l = a := rfl
@[simp] theorem State.setL_pc (s : State) (a : Word) : (s.setL a).pc = s.pc := rfl
@[simp] theorem State.setL_sp (s : State) (a : Word) : (s.setL a).sp = s.sp := rfl
@[simp] theorem State.setL_stack (s : State) (a : Word) : (s.setL a).stack = s.stack := rfl
@[simp] theorem State.setL_dt (s : State) (a : Word) : (s.setL a).dt = s.dt := rfl
@[simp] theorem State.setL_st (s : State) (a : Word) : (s.setL a).st = s.st := rfl
@[simp] theorem State.setL_runState (s : State) (a : Word) : (s.setL a).runState = s.runState := rfl
@[simp] theorem State.setL_haltCause (s : State) (a : Word) : (s.setL a).haltCause = s.haltCause := rfl
@[simp] theorem State.setL_haltWord (s : State) (a : Word) : (s.setL a).haltWord = s.haltWord := rfl
@[simp] theorem State.setL_haltAddr (s : State) (a : Word) : (s.setL a).haltAddr = s.haltAddr := rfl
@[simp] theorem State.setL_mem (s : State) (a : Word) : (s.setL a).mem = s.mem := rfl
@[simp] theorem State.setL_disp (s : State) (a : Word) : (s.setL a).disp = s.disp := rfl
@[simp] theorem State.setL_keypad (s : State) (a : Word) : (s.setL a).keypad = s.keypad := rfl
@[simp] theorem State.setL_inputs (s : State) (a : Word) : (s.setL a).inputs = s.inputs := rfl
@[simp] theorem State.setL_frame (s : State) (a : Word) : (s.setL a).frame = s.frame := rfl
@[simp] theorem State.setL_out (s : State) (a : Word) : (s.setL a).out = s.out := rfl

/-! ### setDt -/

@[simp] theorem State.setDt_v (s : State) (b : Byte) : (s.setDt b).v = s.v := rfl
@[simp] theorem State.setDt_l (s : State) (b : Byte) : (s.setDt b).l = s.l := rfl
@[simp] theorem State.setDt_pc (s : State) (b : Byte) : (s.setDt b).pc = s.pc := rfl
@[simp] theorem State.setDt_sp (s : State) (b : Byte) : (s.setDt b).sp = s.sp := rfl
@[simp] theorem State.setDt_stack (s : State) (b : Byte) : (s.setDt b).stack = s.stack := rfl
@[simp] theorem State.setDt_dt (s : State) (b : Byte) : (s.setDt b).dt = b := rfl
@[simp] theorem State.setDt_st (s : State) (b : Byte) : (s.setDt b).st = s.st := rfl
@[simp] theorem State.setDt_runState (s : State) (b : Byte) : (s.setDt b).runState = s.runState := rfl
@[simp] theorem State.setDt_haltCause (s : State) (b : Byte) : (s.setDt b).haltCause = s.haltCause := rfl
@[simp] theorem State.setDt_haltWord (s : State) (b : Byte) : (s.setDt b).haltWord = s.haltWord := rfl
@[simp] theorem State.setDt_haltAddr (s : State) (b : Byte) : (s.setDt b).haltAddr = s.haltAddr := rfl
@[simp] theorem State.setDt_mem (s : State) (b : Byte) : (s.setDt b).mem = s.mem := rfl
@[simp] theorem State.setDt_disp (s : State) (b : Byte) : (s.setDt b).disp = s.disp := rfl
@[simp] theorem State.setDt_keypad (s : State) (b : Byte) : (s.setDt b).keypad = s.keypad := rfl
@[simp] theorem State.setDt_inputs (s : State) (b : Byte) : (s.setDt b).inputs = s.inputs := rfl
@[simp] theorem State.setDt_frame (s : State) (b : Byte) : (s.setDt b).frame = s.frame := rfl
@[simp] theorem State.setDt_out (s : State) (b : Byte) : (s.setDt b).out = s.out := rfl

/-! ### setSt -/

@[simp] theorem State.setSt_v (s : State) (b : Byte) : (s.setSt b).v = s.v := rfl
@[simp] theorem State.setSt_l (s : State) (b : Byte) : (s.setSt b).l = s.l := rfl
@[simp] theorem State.setSt_pc (s : State) (b : Byte) : (s.setSt b).pc = s.pc := rfl
@[simp] theorem State.setSt_sp (s : State) (b : Byte) : (s.setSt b).sp = s.sp := rfl
@[simp] theorem State.setSt_stack (s : State) (b : Byte) : (s.setSt b).stack = s.stack := rfl
@[simp] theorem State.setSt_dt (s : State) (b : Byte) : (s.setSt b).dt = s.dt := rfl
@[simp] theorem State.setSt_st (s : State) (b : Byte) : (s.setSt b).st = b := rfl
@[simp] theorem State.setSt_runState (s : State) (b : Byte) : (s.setSt b).runState = s.runState := rfl
@[simp] theorem State.setSt_haltCause (s : State) (b : Byte) : (s.setSt b).haltCause = s.haltCause := rfl
@[simp] theorem State.setSt_haltWord (s : State) (b : Byte) : (s.setSt b).haltWord = s.haltWord := rfl
@[simp] theorem State.setSt_haltAddr (s : State) (b : Byte) : (s.setSt b).haltAddr = s.haltAddr := rfl
@[simp] theorem State.setSt_mem (s : State) (b : Byte) : (s.setSt b).mem = s.mem := rfl
@[simp] theorem State.setSt_disp (s : State) (b : Byte) : (s.setSt b).disp = s.disp := rfl
@[simp] theorem State.setSt_keypad (s : State) (b : Byte) : (s.setSt b).keypad = s.keypad := rfl
@[simp] theorem State.setSt_inputs (s : State) (b : Byte) : (s.setSt b).inputs = s.inputs := rfl
@[simp] theorem State.setSt_frame (s : State) (b : Byte) : (s.setSt b).frame = s.frame := rfl
@[simp] theorem State.setSt_out (s : State) (b : Byte) : (s.setSt b).out = s.out := rfl

/-! ### setRunState -/

@[simp] theorem State.setRunState_v (s : State) (r : RunState) : (s.setRunState r).v = s.v := rfl
@[simp] theorem State.setRunState_l (s : State) (r : RunState) : (s.setRunState r).l = s.l := rfl
@[simp] theorem State.setRunState_pc (s : State) (r : RunState) : (s.setRunState r).pc = s.pc := rfl
@[simp] theorem State.setRunState_sp (s : State) (r : RunState) : (s.setRunState r).sp = s.sp := rfl
@[simp] theorem State.setRunState_stack (s : State) (r : RunState) : (s.setRunState r).stack = s.stack := rfl
@[simp] theorem State.setRunState_dt (s : State) (r : RunState) : (s.setRunState r).dt = s.dt := rfl
@[simp] theorem State.setRunState_st (s : State) (r : RunState) : (s.setRunState r).st = s.st := rfl
@[simp] theorem State.setRunState_runState (s : State) (r : RunState) : (s.setRunState r).runState = r := rfl
@[simp] theorem State.setRunState_haltCause (s : State) (r : RunState) : (s.setRunState r).haltCause = s.haltCause := rfl
@[simp] theorem State.setRunState_haltWord (s : State) (r : RunState) : (s.setRunState r).haltWord = s.haltWord := rfl
@[simp] theorem State.setRunState_haltAddr (s : State) (r : RunState) : (s.setRunState r).haltAddr = s.haltAddr := rfl
@[simp] theorem State.setRunState_mem (s : State) (r : RunState) : (s.setRunState r).mem = s.mem := rfl
@[simp] theorem State.setRunState_disp (s : State) (r : RunState) : (s.setRunState r).disp = s.disp := rfl
@[simp] theorem State.setRunState_keypad (s : State) (r : RunState) : (s.setRunState r).keypad = s.keypad := rfl
@[simp] theorem State.setRunState_inputs (s : State) (r : RunState) : (s.setRunState r).inputs = s.inputs := rfl
@[simp] theorem State.setRunState_frame (s : State) (r : RunState) : (s.setRunState r).frame = s.frame := rfl
@[simp] theorem State.setRunState_out (s : State) (r : RunState) : (s.setRunState r).out = s.out := rfl

/-! ### setPc -/

@[simp] theorem State.setPc_v (s : State) (a : Word) : (s.setPc a).v = s.v := rfl
@[simp] theorem State.setPc_l (s : State) (a : Word) : (s.setPc a).l = s.l := rfl
@[simp] theorem State.setPc_pc (s : State) (a : Word) : (s.setPc a).pc = a := rfl
@[simp] theorem State.setPc_sp (s : State) (a : Word) : (s.setPc a).sp = s.sp := rfl
@[simp] theorem State.setPc_stack (s : State) (a : Word) : (s.setPc a).stack = s.stack := rfl
@[simp] theorem State.setPc_dt (s : State) (a : Word) : (s.setPc a).dt = s.dt := rfl
@[simp] theorem State.setPc_st (s : State) (a : Word) : (s.setPc a).st = s.st := rfl
@[simp] theorem State.setPc_runState (s : State) (a : Word) : (s.setPc a).runState = s.runState := rfl
@[simp] theorem State.setPc_haltCause (s : State) (a : Word) : (s.setPc a).haltCause = s.haltCause := rfl
@[simp] theorem State.setPc_haltWord (s : State) (a : Word) : (s.setPc a).haltWord = s.haltWord := rfl
@[simp] theorem State.setPc_haltAddr (s : State) (a : Word) : (s.setPc a).haltAddr = s.haltAddr := rfl
@[simp] theorem State.setPc_mem (s : State) (a : Word) : (s.setPc a).mem = s.mem := rfl
@[simp] theorem State.setPc_disp (s : State) (a : Word) : (s.setPc a).disp = s.disp := rfl
@[simp] theorem State.setPc_keypad (s : State) (a : Word) : (s.setPc a).keypad = s.keypad := rfl
@[simp] theorem State.setPc_inputs (s : State) (a : Word) : (s.setPc a).inputs = s.inputs := rfl
@[simp] theorem State.setPc_frame (s : State) (a : Word) : (s.setPc a).frame = s.frame := rfl
@[simp] theorem State.setPc_out (s : State) (a : Word) : (s.setPc a).out = s.out := rfl

/-! ### advance -/

@[simp] theorem State.advance_v (s : State) : s.advance.v = s.v := rfl
@[simp] theorem State.advance_l (s : State) : s.advance.l = s.l := rfl
@[simp] theorem State.advance_pc (s : State) : s.advance.pc = s.pc + 2#16 := rfl
@[simp] theorem State.advance_sp (s : State) : s.advance.sp = s.sp := rfl
@[simp] theorem State.advance_stack (s : State) : s.advance.stack = s.stack := rfl
@[simp] theorem State.advance_dt (s : State) : s.advance.dt = s.dt := rfl
@[simp] theorem State.advance_st (s : State) : s.advance.st = s.st := rfl
@[simp] theorem State.advance_runState (s : State) : s.advance.runState = s.runState := rfl
@[simp] theorem State.advance_haltCause (s : State) : s.advance.haltCause = s.haltCause := rfl
@[simp] theorem State.advance_haltWord (s : State) : s.advance.haltWord = s.haltWord := rfl
@[simp] theorem State.advance_haltAddr (s : State) : s.advance.haltAddr = s.haltAddr := rfl
@[simp] theorem State.advance_mem (s : State) : s.advance.mem = s.mem := rfl
@[simp] theorem State.advance_disp (s : State) : s.advance.disp = s.disp := rfl
@[simp] theorem State.advance_keypad (s : State) : s.advance.keypad = s.keypad := rfl
@[simp] theorem State.advance_inputs (s : State) : s.advance.inputs = s.inputs := rfl
@[simp] theorem State.advance_frame (s : State) : s.advance.frame = s.frame := rfl
@[simp] theorem State.advance_out (s : State) : s.advance.out = s.out := rfl

/-! ### skipIf -/

@[simp] theorem State.skipIf_v (s : State) (c : Bool) : (s.skipIf c).v = s.v := rfl
@[simp] theorem State.skipIf_l (s : State) (c : Bool) : (s.skipIf c).l = s.l := rfl
@[simp] theorem State.skipIf_pc (s : State) (c : Bool) : (s.skipIf c).pc = s.pc + if c then 4#16 else 2#16 := rfl
@[simp] theorem State.skipIf_sp (s : State) (c : Bool) : (s.skipIf c).sp = s.sp := rfl
@[simp] theorem State.skipIf_stack (s : State) (c : Bool) : (s.skipIf c).stack = s.stack := rfl
@[simp] theorem State.skipIf_dt (s : State) (c : Bool) : (s.skipIf c).dt = s.dt := rfl
@[simp] theorem State.skipIf_st (s : State) (c : Bool) : (s.skipIf c).st = s.st := rfl
@[simp] theorem State.skipIf_runState (s : State) (c : Bool) : (s.skipIf c).runState = s.runState := rfl
@[simp] theorem State.skipIf_haltCause (s : State) (c : Bool) : (s.skipIf c).haltCause = s.haltCause := rfl
@[simp] theorem State.skipIf_haltWord (s : State) (c : Bool) : (s.skipIf c).haltWord = s.haltWord := rfl
@[simp] theorem State.skipIf_haltAddr (s : State) (c : Bool) : (s.skipIf c).haltAddr = s.haltAddr := rfl
@[simp] theorem State.skipIf_mem (s : State) (c : Bool) : (s.skipIf c).mem = s.mem := rfl
@[simp] theorem State.skipIf_disp (s : State) (c : Bool) : (s.skipIf c).disp = s.disp := rfl
@[simp] theorem State.skipIf_keypad (s : State) (c : Bool) : (s.skipIf c).keypad = s.keypad := rfl
@[simp] theorem State.skipIf_inputs (s : State) (c : Bool) : (s.skipIf c).inputs = s.inputs := rfl
@[simp] theorem State.skipIf_frame (s : State) (c : Bool) : (s.skipIf c).frame = s.frame := rfl
@[simp] theorem State.skipIf_out (s : State) (c : Bool) : (s.skipIf c).out = s.out := rfl

/-! ### setResultFlag -/

@[simp] theorem State.setResultFlag_l (s : State) (x : Reg) (b : Byte) (c : Bool) : (s.setResultFlag x b c).l = s.l := rfl
@[simp] theorem State.setResultFlag_pc (s : State) (x : Reg) (b : Byte) (c : Bool) : (s.setResultFlag x b c).pc = s.pc := rfl
@[simp] theorem State.setResultFlag_sp (s : State) (x : Reg) (b : Byte) (c : Bool) : (s.setResultFlag x b c).sp = s.sp := rfl
@[simp] theorem State.setResultFlag_stack (s : State) (x : Reg) (b : Byte) (c : Bool) : (s.setResultFlag x b c).stack = s.stack := rfl
@[simp] theorem State.setResultFlag_dt (s : State) (x : Reg) (b : Byte) (c : Bool) : (s.setResultFlag x b c).dt = s.dt := rfl
@[simp] theorem State.setResultFlag_st (s : State) (x : Reg) (b : Byte) (c : Bool) : (s.setResultFlag x b c).st = s.st := rfl
@[simp] theorem State.setResultFlag_runState (s : State) (x : Reg) (b : Byte) (c : Bool) : (s.setResultFlag x b c).runState = s.runState := rfl
@[simp] theorem State.setResultFlag_haltCause (s : State) (x : Reg) (b : Byte) (c : Bool) : (s.setResultFlag x b c).haltCause = s.haltCause := rfl
@[simp] theorem State.setResultFlag_haltWord (s : State) (x : Reg) (b : Byte) (c : Bool) : (s.setResultFlag x b c).haltWord = s.haltWord := rfl
@[simp] theorem State.setResultFlag_haltAddr (s : State) (x : Reg) (b : Byte) (c : Bool) : (s.setResultFlag x b c).haltAddr = s.haltAddr := rfl
@[simp] theorem State.setResultFlag_mem (s : State) (x : Reg) (b : Byte) (c : Bool) : (s.setResultFlag x b c).mem = s.mem := rfl
@[simp] theorem State.setResultFlag_disp (s : State) (x : Reg) (b : Byte) (c : Bool) : (s.setResultFlag x b c).disp = s.disp := rfl
@[simp] theorem State.setResultFlag_keypad (s : State) (x : Reg) (b : Byte) (c : Bool) : (s.setResultFlag x b c).keypad = s.keypad := rfl
@[simp] theorem State.setResultFlag_inputs (s : State) (x : Reg) (b : Byte) (c : Bool) : (s.setResultFlag x b c).inputs = s.inputs := rfl
@[simp] theorem State.setResultFlag_frame (s : State) (x : Reg) (b : Byte) (c : Bool) : (s.setResultFlag x b c).frame = s.frame := rfl
@[simp] theorem State.setResultFlag_out (s : State) (x : Reg) (b : Byte) (c : Bool) : (s.setResultFlag x b c).out = s.out := rfl

/-! ### raise -/

@[simp] theorem State.raise_v (s : State) (c : HaltCause) (w a : Word) : (s.raise c w a).v = s.v := rfl
@[simp] theorem State.raise_l (s : State) (c : HaltCause) (w a : Word) : (s.raise c w a).l = s.l := rfl
@[simp] theorem State.raise_pc (s : State) (c : HaltCause) (w a : Word) : (s.raise c w a).pc = s.pc := rfl
@[simp] theorem State.raise_sp (s : State) (c : HaltCause) (w a : Word) : (s.raise c w a).sp = s.sp := rfl
@[simp] theorem State.raise_stack (s : State) (c : HaltCause) (w a : Word) : (s.raise c w a).stack = s.stack := rfl
@[simp] theorem State.raise_dt (s : State) (c : HaltCause) (w a : Word) : (s.raise c w a).dt = s.dt := rfl
@[simp] theorem State.raise_st (s : State) (c : HaltCause) (w a : Word) : (s.raise c w a).st = s.st := rfl
@[simp] theorem State.raise_runState (s : State) (c : HaltCause) (w a : Word) : (s.raise c w a).runState = .halted := rfl
@[simp] theorem State.raise_haltCause (s : State) (c : HaltCause) (w a : Word) : (s.raise c w a).haltCause = c := rfl
@[simp] theorem State.raise_haltWord (s : State) (c : HaltCause) (w a : Word) : (s.raise c w a).haltWord = w := rfl
@[simp] theorem State.raise_haltAddr (s : State) (c : HaltCause) (w a : Word) : (s.raise c w a).haltAddr = a := rfl
@[simp] theorem State.raise_mem (s : State) (c : HaltCause) (w a : Word) : (s.raise c w a).mem = s.mem := rfl
@[simp] theorem State.raise_disp (s : State) (c : HaltCause) (w a : Word) : (s.raise c w a).disp = s.disp := rfl
@[simp] theorem State.raise_keypad (s : State) (c : HaltCause) (w a : Word) : (s.raise c w a).keypad = s.keypad := rfl
@[simp] theorem State.raise_inputs (s : State) (c : HaltCause) (w a : Word) : (s.raise c w a).inputs = s.inputs := rfl
@[simp] theorem State.raise_frame (s : State) (c : HaltCause) (w a : Word) : (s.raise c w a).frame = s.frame := rfl
@[simp] theorem State.raise_out (s : State) (c : HaltCause) (w a : Word) : (s.raise c w a).out = s.out := rfl

/-! ### clearDisplay -/

@[simp] theorem State.clearDisplay_v (s : State) : s.clearDisplay.v = s.v := rfl
@[simp] theorem State.clearDisplay_l (s : State) : s.clearDisplay.l = s.l := rfl
@[simp] theorem State.clearDisplay_pc (s : State) : s.clearDisplay.pc = s.pc := rfl
@[simp] theorem State.clearDisplay_sp (s : State) : s.clearDisplay.sp = s.sp := rfl
@[simp] theorem State.clearDisplay_stack (s : State) : s.clearDisplay.stack = s.stack := rfl
@[simp] theorem State.clearDisplay_dt (s : State) : s.clearDisplay.dt = s.dt := rfl
@[simp] theorem State.clearDisplay_st (s : State) : s.clearDisplay.st = s.st := rfl
@[simp] theorem State.clearDisplay_runState (s : State) : s.clearDisplay.runState = s.runState := rfl
@[simp] theorem State.clearDisplay_haltCause (s : State) : s.clearDisplay.haltCause = s.haltCause := rfl
@[simp] theorem State.clearDisplay_haltWord (s : State) : s.clearDisplay.haltWord = s.haltWord := rfl
@[simp] theorem State.clearDisplay_haltAddr (s : State) : s.clearDisplay.haltAddr = s.haltAddr := rfl
@[simp] theorem State.clearDisplay_mem (s : State) : s.clearDisplay.mem = s.mem := rfl
@[simp] theorem State.clearDisplay_disp (s : State) : s.clearDisplay.disp = Display.clear := rfl
@[simp] theorem State.clearDisplay_keypad (s : State) : s.clearDisplay.keypad = s.keypad := rfl
@[simp] theorem State.clearDisplay_inputs (s : State) : s.clearDisplay.inputs = s.inputs := rfl
@[simp] theorem State.clearDisplay_frame (s : State) : s.clearDisplay.frame = s.frame := rfl
@[simp] theorem State.clearDisplay_out (s : State) : s.clearDisplay.out = { s.out with displayClear := true } := rfl

/-! ### takeBlit -/

@[simp] theorem State.takeBlit_l (s : State) (b : BlitState) : (s.takeBlit b).l = s.l := rfl
@[simp] theorem State.takeBlit_pc (s : State) (b : BlitState) : (s.takeBlit b).pc = s.pc := rfl
@[simp] theorem State.takeBlit_sp (s : State) (b : BlitState) : (s.takeBlit b).sp = s.sp := rfl
@[simp] theorem State.takeBlit_stack (s : State) (b : BlitState) : (s.takeBlit b).stack = s.stack := rfl
@[simp] theorem State.takeBlit_dt (s : State) (b : BlitState) : (s.takeBlit b).dt = s.dt := rfl
@[simp] theorem State.takeBlit_st (s : State) (b : BlitState) : (s.takeBlit b).st = s.st := rfl
@[simp] theorem State.takeBlit_runState (s : State) (b : BlitState) : (s.takeBlit b).runState = s.runState := rfl
@[simp] theorem State.takeBlit_haltCause (s : State) (b : BlitState) : (s.takeBlit b).haltCause = s.haltCause := rfl
@[simp] theorem State.takeBlit_haltWord (s : State) (b : BlitState) : (s.takeBlit b).haltWord = s.haltWord := rfl
@[simp] theorem State.takeBlit_haltAddr (s : State) (b : BlitState) : (s.takeBlit b).haltAddr = s.haltAddr := rfl
@[simp] theorem State.takeBlit_mem (s : State) (b : BlitState) : (s.takeBlit b).mem = s.mem := rfl
@[simp] theorem State.takeBlit_disp (s : State) (b : BlitState) : (s.takeBlit b).disp = b.disp := rfl
@[simp] theorem State.takeBlit_keypad (s : State) (b : BlitState) : (s.takeBlit b).keypad = s.keypad := rfl
@[simp] theorem State.takeBlit_inputs (s : State) (b : BlitState) : (s.takeBlit b).inputs = s.inputs := rfl
@[simp] theorem State.takeBlit_frame (s : State) (b : BlitState) : (s.takeBlit b).frame = s.frame := rfl
@[simp] theorem State.takeBlit_out (s : State) (b : BlitState) : (s.takeBlit b).out = { s.out with transitions := b.transitions } := rfl

/-! ### clearOutputs -/

@[simp] theorem State.clearOutputs_v (s : State) : s.clearOutputs.v = s.v := rfl
@[simp] theorem State.clearOutputs_l (s : State) : s.clearOutputs.l = s.l := rfl
@[simp] theorem State.clearOutputs_pc (s : State) : s.clearOutputs.pc = s.pc := rfl
@[simp] theorem State.clearOutputs_sp (s : State) : s.clearOutputs.sp = s.sp := rfl
@[simp] theorem State.clearOutputs_stack (s : State) : s.clearOutputs.stack = s.stack := rfl
@[simp] theorem State.clearOutputs_dt (s : State) : s.clearOutputs.dt = s.dt := rfl
@[simp] theorem State.clearOutputs_st (s : State) : s.clearOutputs.st = s.st := rfl
@[simp] theorem State.clearOutputs_runState (s : State) : s.clearOutputs.runState = s.runState := rfl
@[simp] theorem State.clearOutputs_haltCause (s : State) : s.clearOutputs.haltCause = s.haltCause := rfl
@[simp] theorem State.clearOutputs_haltWord (s : State) : s.clearOutputs.haltWord = s.haltWord := rfl
@[simp] theorem State.clearOutputs_haltAddr (s : State) : s.clearOutputs.haltAddr = s.haltAddr := rfl
@[simp] theorem State.clearOutputs_mem (s : State) : s.clearOutputs.mem = s.mem := rfl
@[simp] theorem State.clearOutputs_disp (s : State) : s.clearOutputs.disp = s.disp := rfl
@[simp] theorem State.clearOutputs_keypad (s : State) : s.clearOutputs.keypad = s.keypad := rfl
@[simp] theorem State.clearOutputs_inputs (s : State) : s.clearOutputs.inputs = s.inputs := rfl
@[simp] theorem State.clearOutputs_frame (s : State) : s.clearOutputs.frame = s.frame := rfl
@[simp] theorem State.clearOutputs_out (s : State) : s.clearOutputs.out = Outputs.quiet := rfl

/-! ### sampleKeypad -/

@[simp] theorem State.sampleKeypad_v (s : State) : s.sampleKeypad.v = s.v := by simp only [State.sampleKeypad]
@[simp] theorem State.sampleKeypad_l (s : State) : s.sampleKeypad.l = s.l := by simp only [State.sampleKeypad]
@[simp] theorem State.sampleKeypad_pc (s : State) : s.sampleKeypad.pc = s.pc := by simp only [State.sampleKeypad]
@[simp] theorem State.sampleKeypad_sp (s : State) : s.sampleKeypad.sp = s.sp := by simp only [State.sampleKeypad]
@[simp] theorem State.sampleKeypad_stack (s : State) : s.sampleKeypad.stack = s.stack := by simp only [State.sampleKeypad]
@[simp] theorem State.sampleKeypad_dt (s : State) : s.sampleKeypad.dt = s.dt := by simp only [State.sampleKeypad]
@[simp] theorem State.sampleKeypad_st (s : State) : s.sampleKeypad.st = s.st := by simp only [State.sampleKeypad]
@[simp] theorem State.sampleKeypad_runState (s : State) : s.sampleKeypad.runState = s.runState := by simp only [State.sampleKeypad]
@[simp] theorem State.sampleKeypad_haltCause (s : State) : s.sampleKeypad.haltCause = s.haltCause := by simp only [State.sampleKeypad]
@[simp] theorem State.sampleKeypad_haltWord (s : State) : s.sampleKeypad.haltWord = s.haltWord := by simp only [State.sampleKeypad]
@[simp] theorem State.sampleKeypad_haltAddr (s : State) : s.sampleKeypad.haltAddr = s.haltAddr := by simp only [State.sampleKeypad]
@[simp] theorem State.sampleKeypad_mem (s : State) : s.sampleKeypad.mem = s.mem := by simp only [State.sampleKeypad]
@[simp] theorem State.sampleKeypad_disp (s : State) : s.sampleKeypad.disp = s.disp := by simp only [State.sampleKeypad]
@[simp] theorem State.sampleKeypad_keypad (s : State) : s.sampleKeypad.keypad = keypadOf s.currentInput.keys := by simp only [State.sampleKeypad]
@[simp] theorem State.sampleKeypad_inputs (s : State) : s.sampleKeypad.inputs = s.inputs := by simp only [State.sampleKeypad]
@[simp] theorem State.sampleKeypad_frame (s : State) : s.sampleKeypad.frame = s.frame := by simp only [State.sampleKeypad]
@[simp] theorem State.sampleKeypad_out (s : State) : s.sampleKeypad.out = s.out := by simp only [State.sampleKeypad]

/-! ### openFrame -/

@[simp] theorem State.openFrame_v (s : State) : s.openFrame.v = s.v := by simp only [State.openFrame, State.clearOutputs, State.sampleKeypad, State.currentInput]
@[simp] theorem State.openFrame_l (s : State) : s.openFrame.l = s.l := by simp only [State.openFrame, State.clearOutputs, State.sampleKeypad, State.currentInput]
@[simp] theorem State.openFrame_pc (s : State) : s.openFrame.pc = s.pc := by simp only [State.openFrame, State.clearOutputs, State.sampleKeypad, State.currentInput]
@[simp] theorem State.openFrame_sp (s : State) : s.openFrame.sp = s.sp := by simp only [State.openFrame, State.clearOutputs, State.sampleKeypad, State.currentInput]
@[simp] theorem State.openFrame_stack (s : State) : s.openFrame.stack = s.stack := by simp only [State.openFrame, State.clearOutputs, State.sampleKeypad, State.currentInput]
@[simp] theorem State.openFrame_dt (s : State) : s.openFrame.dt = s.dt := by simp only [State.openFrame, State.clearOutputs, State.sampleKeypad, State.currentInput]
@[simp] theorem State.openFrame_st (s : State) : s.openFrame.st = s.st := by simp only [State.openFrame, State.clearOutputs, State.sampleKeypad, State.currentInput]
@[simp] theorem State.openFrame_runState (s : State) : s.openFrame.runState = s.runState := by simp only [State.openFrame, State.clearOutputs, State.sampleKeypad, State.currentInput]
@[simp] theorem State.openFrame_haltCause (s : State) : s.openFrame.haltCause = s.haltCause := by simp only [State.openFrame, State.clearOutputs, State.sampleKeypad, State.currentInput]
@[simp] theorem State.openFrame_haltWord (s : State) : s.openFrame.haltWord = s.haltWord := by simp only [State.openFrame, State.clearOutputs, State.sampleKeypad, State.currentInput]
@[simp] theorem State.openFrame_haltAddr (s : State) : s.openFrame.haltAddr = s.haltAddr := by simp only [State.openFrame, State.clearOutputs, State.sampleKeypad, State.currentInput]
@[simp] theorem State.openFrame_mem (s : State) : s.openFrame.mem = s.mem := by simp only [State.openFrame, State.clearOutputs, State.sampleKeypad, State.currentInput]
@[simp] theorem State.openFrame_disp (s : State) : s.openFrame.disp = s.disp := by simp only [State.openFrame, State.clearOutputs, State.sampleKeypad, State.currentInput]
@[simp] theorem State.openFrame_keypad (s : State) : s.openFrame.keypad = keypadOf s.currentInput.keys := by simp only [State.openFrame, State.clearOutputs, State.sampleKeypad, State.currentInput]
@[simp] theorem State.openFrame_inputs (s : State) : s.openFrame.inputs = s.inputs := by simp only [State.openFrame, State.clearOutputs, State.sampleKeypad, State.currentInput]
@[simp] theorem State.openFrame_frame (s : State) : s.openFrame.frame = s.frame := by simp only [State.openFrame, State.clearOutputs, State.sampleKeypad, State.currentInput]
@[simp] theorem State.openFrame_out (s : State) : s.openFrame.out = Outputs.quiet := by simp only [State.openFrame, State.clearOutputs, State.sampleKeypad, State.currentInput]

/-! ### tickTimers -/

@[simp] theorem State.tickTimers_v (s : State) : s.tickTimers.v = s.v := rfl
@[simp] theorem State.tickTimers_l (s : State) : s.tickTimers.l = s.l := rfl
@[simp] theorem State.tickTimers_pc (s : State) : s.tickTimers.pc = s.pc := rfl
@[simp] theorem State.tickTimers_sp (s : State) : s.tickTimers.sp = s.sp := rfl
@[simp] theorem State.tickTimers_stack (s : State) : s.tickTimers.stack = s.stack := rfl
@[simp] theorem State.tickTimers_dt (s : State) : s.tickTimers.dt = tick s.dt := rfl
@[simp] theorem State.tickTimers_st (s : State) : s.tickTimers.st = tick s.st := rfl
@[simp] theorem State.tickTimers_runState (s : State) : s.tickTimers.runState = s.runState := rfl
@[simp] theorem State.tickTimers_haltCause (s : State) : s.tickTimers.haltCause = s.haltCause := rfl
@[simp] theorem State.tickTimers_haltWord (s : State) : s.tickTimers.haltWord = s.haltWord := rfl
@[simp] theorem State.tickTimers_haltAddr (s : State) : s.tickTimers.haltAddr = s.haltAddr := rfl
@[simp] theorem State.tickTimers_mem (s : State) : s.tickTimers.mem = s.mem := rfl
@[simp] theorem State.tickTimers_disp (s : State) : s.tickTimers.disp = s.disp := rfl
@[simp] theorem State.tickTimers_keypad (s : State) : s.tickTimers.keypad = s.keypad := rfl
@[simp] theorem State.tickTimers_inputs (s : State) : s.tickTimers.inputs = s.inputs := rfl
@[simp] theorem State.tickTimers_frame (s : State) : s.tickTimers.frame = s.frame := rfl
@[simp] theorem State.tickTimers_out (s : State) : s.tickTimers.out = { s.out with beep := s.st != 0#8 } := rfl

/-! ### clearKeypad -/

@[simp] theorem State.clearKeypad_v (s : State) : s.clearKeypad.v = s.v := rfl
@[simp] theorem State.clearKeypad_l (s : State) : s.clearKeypad.l = s.l := rfl
@[simp] theorem State.clearKeypad_pc (s : State) : s.clearKeypad.pc = s.pc := rfl
@[simp] theorem State.clearKeypad_sp (s : State) : s.clearKeypad.sp = s.sp := rfl
@[simp] theorem State.clearKeypad_stack (s : State) : s.clearKeypad.stack = s.stack := rfl
@[simp] theorem State.clearKeypad_dt (s : State) : s.clearKeypad.dt = s.dt := rfl
@[simp] theorem State.clearKeypad_st (s : State) : s.clearKeypad.st = s.st := rfl
@[simp] theorem State.clearKeypad_runState (s : State) : s.clearKeypad.runState = s.runState := rfl
@[simp] theorem State.clearKeypad_haltCause (s : State) : s.clearKeypad.haltCause = s.haltCause := rfl
@[simp] theorem State.clearKeypad_haltWord (s : State) : s.clearKeypad.haltWord = s.haltWord := rfl
@[simp] theorem State.clearKeypad_haltAddr (s : State) : s.clearKeypad.haltAddr = s.haltAddr := rfl
@[simp] theorem State.clearKeypad_mem (s : State) : s.clearKeypad.mem = s.mem := rfl
@[simp] theorem State.clearKeypad_disp (s : State) : s.clearKeypad.disp = s.disp := rfl
@[simp] theorem State.clearKeypad_keypad (s : State) : s.clearKeypad.keypad = noKeys := rfl
@[simp] theorem State.clearKeypad_inputs (s : State) : s.clearKeypad.inputs = s.inputs := rfl
@[simp] theorem State.clearKeypad_frame (s : State) : s.clearKeypad.frame = s.frame := rfl
@[simp] theorem State.clearKeypad_out (s : State) : s.clearKeypad.out = s.out := rfl

/-! ### nextInput -/

@[simp] theorem State.nextInput_v (s : State) : s.nextInput.v = s.v := rfl
@[simp] theorem State.nextInput_l (s : State) : s.nextInput.l = s.l := rfl
@[simp] theorem State.nextInput_pc (s : State) : s.nextInput.pc = s.pc := rfl
@[simp] theorem State.nextInput_sp (s : State) : s.nextInput.sp = s.sp := rfl
@[simp] theorem State.nextInput_stack (s : State) : s.nextInput.stack = s.stack := rfl
@[simp] theorem State.nextInput_dt (s : State) : s.nextInput.dt = s.dt := rfl
@[simp] theorem State.nextInput_st (s : State) : s.nextInput.st = s.st := rfl
@[simp] theorem State.nextInput_runState (s : State) : s.nextInput.runState = s.runState := rfl
@[simp] theorem State.nextInput_haltCause (s : State) : s.nextInput.haltCause = s.haltCause := rfl
@[simp] theorem State.nextInput_haltWord (s : State) : s.nextInput.haltWord = s.haltWord := rfl
@[simp] theorem State.nextInput_haltAddr (s : State) : s.nextInput.haltAddr = s.haltAddr := rfl
@[simp] theorem State.nextInput_mem (s : State) : s.nextInput.mem = s.mem := rfl
@[simp] theorem State.nextInput_disp (s : State) : s.nextInput.disp = s.disp := rfl
@[simp] theorem State.nextInput_keypad (s : State) : s.nextInput.keypad = s.keypad := rfl
@[simp] theorem State.nextInput_inputs (s : State) : s.nextInput.inputs = s.inputs.tail := rfl
@[simp] theorem State.nextInput_frame (s : State) : s.nextInput.frame = s.frame + 1 := rfl
@[simp] theorem State.nextInput_out (s : State) : s.nextInput.out = s.out := rfl

/-! ### Reading a register -/

theorem State.reg_eq (s : State) (x : Reg) : s.reg x = s.v[x.val] := rfl

/-- Two states with the same register file read the same registers. -/
theorem State.reg_congr {s t : State} (h : t.v = s.v) (x : Reg) : t.reg x = s.reg x := by
  simp only [State.reg, h]

@[simp] theorem State.reg_setReg (s : State) (x y : Reg) (b : Byte) :
    (s.setReg x b).reg y = if y = x then b else s.reg y := by
  simp only [State.reg, State.setReg_v, Vector.getElem_set, Fin.ext_iff, eq_comm]

@[simp] theorem State.reg_setRegs (s : State) (bs : List Byte) (y : Reg) :
    (s.setRegs bs).reg y = bs.getD y.val (s.reg y) := by
  simp [State.reg, State.setRegs]

/-- With `x = 15` the flag, written last, is what is read (R183). -/
@[simp] theorem State.reg_setResultFlag (s : State) (x y : Reg) (b : Byte) (c : Bool) :
    (s.setResultFlag x b c).reg y = if y = flagReg then flagByte c else if y = x then b else s.reg y := by
  simp [State.setResultFlag]

@[simp] theorem State.reg_takeBlit (s : State) (b : BlitState) (y : Reg) :
    (s.takeBlit b).reg y = if y = flagReg then flagByte b.erased else s.reg y := by
  rw [State.takeBlit, State.reg_setReg]
  rfl

@[simp] theorem State.reg_setL (s : State) (a : Word) (y : Reg) : (s.setL a).reg y = s.reg y := rfl
@[simp] theorem State.reg_setDt (s : State) (b : Byte) (y : Reg) : (s.setDt b).reg y = s.reg y := rfl
@[simp] theorem State.reg_setSt (s : State) (b : Byte) (y : Reg) : (s.setSt b).reg y = s.reg y := rfl
@[simp] theorem State.reg_setRunState (s : State) (r : RunState) (y : Reg) : (s.setRunState r).reg y = s.reg y := rfl
@[simp] theorem State.reg_setPc (s : State) (a : Word) (y : Reg) : (s.setPc a).reg y = s.reg y := rfl
@[simp] theorem State.reg_advance (s : State) (y : Reg) : s.advance.reg y = s.reg y := rfl
@[simp] theorem State.reg_skipIf (s : State) (c : Bool) (y : Reg) : (s.skipIf c).reg y = s.reg y := rfl
@[simp] theorem State.reg_raise (s : State) (c : HaltCause) (w a : Word) (y : Reg) : (s.raise c w a).reg y = s.reg y := rfl
@[simp] theorem State.reg_clearDisplay (s : State) (y : Reg) : s.clearDisplay.reg y = s.reg y := rfl
@[simp] theorem State.reg_clearOutputs (s : State) (y : Reg) : s.clearOutputs.reg y = s.reg y := rfl
@[simp] theorem State.reg_sampleKeypad (s : State) (y : Reg) : s.sampleKeypad.reg y = s.reg y := State.reg_congr (State.sampleKeypad_v s) y
@[simp] theorem State.reg_openFrame (s : State) (y : Reg) : s.openFrame.reg y = s.reg y := State.reg_congr (State.openFrame_v s) y
@[simp] theorem State.reg_tickTimers (s : State) (y : Reg) : s.tickTimers.reg y = s.reg y := rfl
@[simp] theorem State.reg_clearKeypad (s : State) (y : Reg) : s.clearKeypad.reg y = s.reg y := rfl
@[simp] theorem State.reg_nextInput (s : State) (y : Reg) : s.nextInput.reg y = s.reg y := rfl

/-! ### The inputs of the frame -/

theorem State.currentInput_congr {s t : State} (hi : t.inputs = s.inputs) (hf : t.frame = s.frame) :
    t.currentInput = s.currentInput := by
  simp only [State.currentInput, hi, hf]

theorem State.currentInput_cons {s : State} {i : FrameInput} {rest : List FrameInput} (h : s.inputs = i :: rest) :
    s.currentInput = i := by
  simp only [State.currentInput, h]

end Sys2Proof.Machine
end

