-- ==== Sys2Proof/Laws/Blit.lean ====
section
/-! SUPPORT. The laws of the display and of the blit engine: reading a pixel after one is written, what one flip does,
and what flipping a list of distinct cells does. -/

namespace Sys2Proof.Machine

@[simp] theorem Display.pixel_clear (r : Fin 32) (c : Fin 64) : Display.clear.pixel r c = false := by
  simp [Display.clear, Display.pixel]

@[simp] theorem Display.pixel_setPixel (d : Display) (r r' : Fin 32) (c c' : Fin 64) (b : Bool) :
    (d.setPixel r c b).pixel r' c' = if (r', c') = (r, c) then b else d.pixel r' c' := by
  simp only [Display.pixel, Display.setPixel, Vector.getElem_set, Prod.mk.injEq, Fin.ext_iff]
  by_cases hr : r.val = r'.val
  · by_cases hc : c.val = c'.val
    · simp [hr, hc]
    · simp [hr, hc, Ne.symm hc]
  · simp [hr, Ne.symm hr]

/-- One flip: the cell's pixel is inverted, no other pixel changes (R212). -/
theorem pixel_flipPixel (b : BlitState) (cell : Fin 32 × Fin 64) (r : Fin 32) (c : Fin 64) :
    (flipPixel b cell).disp.pixel r c = (b.disp.pixel r c != decide ((r, c) = cell)) := by
  obtain ⟨r0, c0⟩ := cell
  simp only [flipPixel, Display.pixel_setPixel]
  split
  · next h => obtain ⟨rfl, rfl⟩ := Prod.mk.inj h; simp
  · next h => simp [h]

/-- The transition of a flip, by what the pixel was before it (R213). -/
def flipReport (d : Display) (cell : Fin 32 × Fin 64) : Transition :=
  ⟨cell.2, cell.1, if d.pixel cell.1 cell.2 then .erased else .drawn⟩

/-- Flipping distinct cells inverts exactly their pixels, notes whether one of them was set, and reports each by what it
was at the start (R212 to R214). -/
theorem foldl_flipPixel (cells : List (Fin 32 × Fin 64)) (b : BlitState) (h : cells.Nodup) :
    (∀ r c, (cells.foldl flipPixel b).disp.pixel r c = (b.disp.pixel r c != decide ((r, c) ∈ cells))) ∧
    ((cells.foldl flipPixel b).erased = (b.erased || cells.any fun cell => b.disp.pixel cell.1 cell.2)) ∧
    (cells.foldl flipPixel b).transitions = b.transitions ++ cells.map (flipReport b.disp) := by
  induction cells generalizing b with
  | nil => simp
  | cons cell cells ih =>
    obtain ⟨hmem, hnd⟩ := List.nodup_cons.1 h
    obtain ⟨hd, he, ht⟩ := ih (flipPixel b cell) hnd
    have same : ∀ c' ∈ cells, (flipPixel b cell).disp.pixel c'.1 c'.2 = b.disp.pixel c'.1 c'.2 := by
      intro c' hc'
      have hne : ¬ (c'.1, c'.2) = cell := fun heq => hmem (heq ▸ hc')
      rw [pixel_flipPixel]
      simp [hne]
    refine ⟨fun r c => ?_, ?_, ?_⟩
    · rw [List.foldl_cons, hd, pixel_flipPixel]
      by_cases h1 : (r, c) = cell
      · simp [h1, hmem]
      · simp [h1]
    · rw [List.foldl_cons, he, List.any_cons]
      have : (cells.any fun cell_1 => (flipPixel b cell).disp.pixel cell_1.1 cell_1.2) =
          cells.any fun cell => b.disp.pixel cell.1 cell.2 := by
        rw [Bool.eq_iff_iff, List.any_eq_true, List.any_eq_true]
        exact exists_congr fun c' => and_congr_right fun hc' => by rw [same c' hc']
      rw [this, ← Bool.or_assoc]
      rfl
    · rw [List.foldl_cons, ht, List.map_cons]
      have : cells.map (flipReport (flipPixel b cell).disp) = cells.map (flipReport b.disp) :=
        List.map_congr_left fun c' hc' => by simp only [flipReport, same c' hc']
      rw [this]
      simp [flipPixel, flipReport]

end Sys2Proof.Machine
end

