-- ==== Sys2Proof/Laws/Decode.lean ====
section
/-! SUPPORT. The fields of a word as numbers, the numbers that the encoder packs, and the bytes of a word. -/

namespace Sys2Proof

theorem fieldOp_eq (w : Word) : fieldOp w = w.toNat / 0x1000 := by
  have := w.isLt
  simp only [fieldOp, BitVec.extractLsb'_toNat, Nat.shiftRight_eq_div_pow]
  omega

theorem fieldX_val (w : Word) : (fieldX w).val = w.toNat / 0x100 % 0x10 := by
  simp only [fieldX, BitVec.extractLsb'_toNat, Nat.shiftRight_eq_div_pow]

theorem fieldY_val (w : Word) : (fieldY w).val = w.toNat / 0x10 % 0x10 := by
  simp only [fieldY, BitVec.extractLsb'_toNat, Nat.shiftRight_eq_div_pow]

theorem fieldN_val (w : Word) : (fieldN w).val = w.toNat % 0x10 := by
  simp only [fieldN, BitVec.extractLsb'_toNat, Nat.shiftRight_eq_div_pow]
  omega

theorem fieldKk_toNat (w : Word) : (fieldKk w).toNat = w.toNat % 0x100 := by
  simp only [fieldKk, BitVec.extractLsb'_toNat, Nat.shiftRight_eq_div_pow]
  omega

theorem fieldNnn_toNat (w : Word) : (fieldNnn w).toNat = w.toNat % 0x1000 := by
  simp only [fieldNnn, BitVec.extractLsb'_toNat, Nat.shiftRight_eq_div_pow]
  omega

theorem packNnn_toNat {op : Nat} (h : op < 0x10) (nnn : Addr) : (packNnn op nnn).toNat = op * 0x1000 + nnn.toNat := by
  have := nnn.isLt
  simp only [packNnn, BitVec.toNat_ofNat]
  omega

theorem packXkk_toNat {op : Nat} (h : op < 0x10) (x : Reg) (kk : Byte) :
    (packXkk op x kk).toNat = op * 0x1000 + x.val * 0x100 + kk.toNat := by
  have := kk.isLt
  simp only [packXkk, BitVec.toNat_ofNat]
  omega

theorem packXyn_toNat {op : Nat} (h : op < 0x10) (x y : Reg) (n : Count) :
    (packXyn op x y n).toNat = op * 0x1000 + x.val * 0x100 + y.val * 0x10 + n.val := by
  simp only [packXyn, BitVec.toNat_ofNat]
  omega

/-- The fields of a word of format NNN are what was packed. -/
theorem fields_packNnn {op : Nat} (h : op < 0x10) (nnn : Addr) :
    fieldOp (packNnn op nnn) = op ∧ fieldNnn (packNnn op nnn) = nnn := by
  have := nnn.isLt
  refine ⟨?_, BitVec.eq_of_toNat_eq ?_⟩
  · rw [fieldOp_eq, packNnn_toNat h]; omega
  · rw [fieldNnn_toNat, packNnn_toNat h]; omega

/-- The fields of a word of format XKK are what was packed. -/
theorem fields_packXkk {op : Nat} (h : op < 0x10) (x : Reg) (kk : Byte) :
    fieldOp (packXkk op x kk) = op ∧ fieldX (packXkk op x kk) = x ∧ fieldKk (packXkk op x kk) = kk := by
  have := kk.isLt
  refine ⟨?_, Fin.ext ?_, BitVec.eq_of_toNat_eq ?_⟩
  · rw [fieldOp_eq, packXkk_toNat h]; omega
  · rw [fieldX_val, packXkk_toNat h]; omega
  · rw [fieldKk_toNat, packXkk_toNat h]; omega

/-- The fields of a word of format XY or XYN are what was packed. -/
theorem fields_packXyn {op : Nat} (h : op < 0x10) (x y : Reg) (n : Count) :
    fieldOp (packXyn op x y n) = op ∧ fieldX (packXyn op x y n) = x ∧ fieldY (packXyn op x y n) = y ∧
      fieldN (packXyn op x y n) = n := by
  refine ⟨?_, Fin.ext ?_, Fin.ext ?_, Fin.ext ?_⟩
  · rw [fieldOp_eq, packXyn_toNat h]; omega
  · rw [fieldX_val, packXyn_toNat h]; omega
  · rw [fieldY_val, packXyn_toNat h]; omega
  · rw [fieldN_val, packXyn_toNat h]; omega

/-- A word packed from its own fields is the word. -/
theorem packNnn_fields (w : Word) : packNnn (fieldOp w) (fieldNnn w) = w := by
  have := w.isLt
  refine BitVec.eq_of_toNat_eq ?_
  rw [packNnn_toNat (by rw [fieldOp_eq]; omega), fieldOp_eq, fieldNnn_toNat]
  omega

theorem packXkk_fields (w : Word) : packXkk (fieldOp w) (fieldX w) (fieldKk w) = w := by
  have := w.isLt
  refine BitVec.eq_of_toNat_eq ?_
  rw [packXkk_toNat (by rw [fieldOp_eq]; omega), fieldOp_eq, fieldX_val, fieldKk_toNat]
  omega

theorem packXyn_fields (w : Word) : packXyn (fieldOp w) (fieldX w) (fieldY w) (fieldN w) = w := by
  have := w.isLt
  refine BitVec.eq_of_toNat_eq ?_
  rw [packXyn_toNat (by rw [fieldOp_eq]; omega), fieldOp_eq, fieldX_val, fieldY_val, fieldN_val]
  omega

/-- A word read back from its two bytes, high byte first, is the word (R66). -/
theorem wordOfBytes_highByte_lowByte (w : Word) : wordOfBytes (highByte w) (lowByte w) = w := by
  have := w.isLt
  refine BitVec.eq_of_toNat_eq ?_
  simp only [wordOfBytes, highByte, lowByte, BitVec.toNat_ofNat]
  omega

/-- The decoder gives an instruction or the one rejection of a whole word, never that of missing bytes (R90). -/
theorem decodeWord_error {w : Word} {e : Reject} (h : decodeWord w = .error e) : e = .unrecognized := by
  unfold decodeWord decodeClass0 decodeClass8 decodeClassE decodeClassF at h
  repeat' split at h
  all_goals cases h
  all_goals rfl

end Sys2Proof
end

