-- ==== Sys2Proof/Laws/Memory.lean ====
section
/-! SUPPORT. The laws of memory: a read after a write, the canonical form kept by every write, and what the access
primitives answer. -/

namespace Sys2Proof.Machine

/-! ### Reading after writing -/

@[simp] theorem Memory.get_nil (a : Nat) : Memory.get [] a = Memory.background a := rfl

theorem Memory.get_listed (a b : Nat) (w : Byte) (m : Memory) :
    Memory.get ((b, w) :: m) a = if a = b then w else Memory.get m a := rfl

/-- Below the first address that a canonical memory may list, an address reads as unlisted. -/
theorem Memory.get_of_lt_low {m : Memory} {low a : Nat} (h : Memory.wfFrom low m = true) (ha : a < low) :
    m.get a = Memory.background a := by
  induction m generalizing low with
  | nil => rfl
  | cons c m ih =>
    obtain ⟨b, u⟩ := c
    simp only [Memory.wfFrom, Bool.and_eq_true, decide_eq_true_eq] at h
    rw [Memory.get_listed, if_neg (by omega)]
    exact ih h.2 (by omega)

theorem Memory.get_cons (m : Memory) (a b : Nat) (w : Byte) (h : m.get b = Memory.background b ∨ a ≠ b) :
    Memory.get (Memory.cons b w m) a = if a = b then w else m.get a := by
  unfold Memory.cons
  split
  · next hw =>
    split
    · next hab => subst hab; simp_all
    · rfl
  · exact Memory.get_listed a b w m

/-- In a canonical memory, a read gives what was last written to its address, and the reset content where nothing was. -/
theorem Memory.get_put {m : Memory} {low : Nat} (h : Memory.wfFrom low m = true) (a b : Nat) (w : Byte) :
    (m.put b w).get a = if a = b then w else m.get a := by
  induction m generalizing low with
  | nil => exact Memory.get_cons [] a b w (.inl rfl)
  | cons c m ih =>
    obtain ⟨d, u⟩ := c
    simp only [Memory.wfFrom, Bool.and_eq_true, decide_eq_true_eq] at h
    unfold Memory.put
    split
    · next hlt =>
      refine Memory.get_cons _ a b w (.inl ?_)
      rw [Memory.get_listed, if_neg (by omega)]
      exact Memory.get_of_lt_low h.2 (by omega)
    · split
      · next hne heq =>
        subst heq
        rw [Memory.get_cons m a b w (.inl (Memory.get_of_lt_low h.2 (by omega))), Memory.get_listed]
        split <;> rfl
      · rw [Memory.get_listed, ih h.2, Memory.get_listed]
        split
        · next h1 => rw [if_neg (by omega)]
        · rfl

/-! ### The canonical form -/

/-- Raising the bound below a canonical memory that has nothing there. -/
theorem Memory.wfFrom_mono {m : Memory} {low low' : Nat} (h : Memory.wfFrom low m = true) (hl : low' ≤ low) :
    Memory.wfFrom low' m = true := by
  cases m with
  | nil => rfl
  | cons c m =>
    simp only [Memory.wfFrom, Bool.and_eq_true, decide_eq_true_eq] at h ⊢
    exact ⟨⟨⟨by omega, h.1.1.2⟩, h.1.2⟩, h.2⟩

theorem Memory.wfFrom_cons {m : Memory} {low a : Nat} (w : Byte) (h : Memory.wfFrom (a + 1) m = true) (hl : low ≤ a)
    (ha : a < Config.memSize) : Memory.wfFrom low (Memory.cons a w m) = true := by
  unfold Memory.cons
  split
  · exact Memory.wfFrom_mono h (by omega)
  · next hw => simp [Memory.wfFrom, hl, ha, hw, h]

theorem Memory.wfFrom_put {m : Memory} {low a : Nat} (w : Byte) (h : Memory.wfFrom low m = true) (hl : low ≤ a)
    (ha : a < Config.memSize) : Memory.wfFrom low (m.put a w) = true := by
  induction m generalizing low with
  | nil => exact Memory.wfFrom_cons w rfl hl ha
  | cons c m ih =>
    obtain ⟨b, u⟩ := c
    have h' := h
    simp only [Memory.wfFrom, Bool.and_eq_true, decide_eq_true_eq] at h
    unfold Memory.put
    split
    · next hlt =>
      refine Memory.wfFrom_cons w ?_ hl ha
      simp only [Memory.wfFrom, Bool.and_eq_true, decide_eq_true_eq]
      exact ⟨⟨⟨by omega, h.1.1.2⟩, h.1.2⟩, h.2⟩
    · split
      · next heq => subst heq; exact Memory.wfFrom_cons w h.2 hl ha
      · simp only [Memory.wfFrom, Bool.and_eq_true, decide_eq_true_eq]
        exact ⟨h.1, ih h.2 (by omega)⟩

/-- Writing a byte inside the address space keeps the canonical form. -/
theorem Memory.wf_put {m : Memory} {a : Nat} (w : Byte) (h : m.wf = true) (ha : a < Config.memSize) :
    (m.put a w).wf = true :=
  Memory.wfFrom_put w h (Nat.zero_le a) ha

/-- Writing bytes inside the address space keeps the canonical form. -/
theorem Memory.wf_putBytes {m : Memory} {a : Nat} {ws : List Byte} (h : m.wf = true)
    (ha : a + ws.length ≤ Config.memSize) : (m.putBytes a ws).wf = true := by
  induction ws generalizing m a with
  | nil => exact h
  | cons w ws ih =>
    simp only [List.length_cons] at ha
    exact ih (Memory.wf_put w h (by omega)) (by omega)

/-- What a byte reads as after a sequence of bytes is written to a canonical memory. -/
theorem Memory.get_putBytes {m : Memory} {a : Nat} {ws : List Byte} (h : m.wf = true)
    (ha : a + ws.length ≤ Config.memSize) (b : Nat) :
    (m.putBytes a ws).get b = if a ≤ b then ws.getD (b - a) (m.get b) else m.get b := by
  induction ws generalizing m a with
  | nil => simp [Memory.putBytes]
  | cons w ws ih =>
    simp only [List.length_cons] at ha
    rw [Memory.putBytes, ih (Memory.wf_put w h (by omega)) (by omega), Memory.get_put h]
    by_cases hab : b = a
    · subst hab; simp
    · by_cases hlt : a ≤ b
      · rw [if_pos hlt, if_neg hab]
        by_cases h1 : a + 1 ≤ b
        · rw [if_pos h1, show b - a = (b - (a + 1)) + 1 by omega]
          rfl
        · omega
      · rw [if_neg hlt, if_neg hab]
        by_cases h1 : a + 1 ≤ b
        · omega
        · rw [if_neg h1]

/-- Two canonical memories that read the same everywhere are the same list. -/
theorem Memory.ext_of_get {m m' : Memory} {low : Nat} (h : Memory.wfFrom low m = true)
    (h' : Memory.wfFrom low m' = true) (hg : ∀ a, m.get a = m'.get a) : m = m' := by
  induction m generalizing low m' with
  | nil =>
    cases m' with
    | nil => rfl
    | cons c m' =>
      obtain ⟨b, u⟩ := c
      simp only [Memory.wfFrom, Bool.and_eq_true, bne_iff_ne, ne_eq] at h'
      exact absurd (by simpa [Memory.get_listed] using (hg b).symm) h'.1.2
  | cons c m ih =>
    obtain ⟨b, u⟩ := c
    have hm := h
    simp only [Memory.wfFrom, Bool.and_eq_true, decide_eq_true_eq, bne_iff_ne, ne_eq] at h
    cases m' with
    | nil => exact absurd (by simpa [Memory.get_listed] using hg b) h.1.2
    | cons c' m' =>
      obtain ⟨b', u'⟩ := c'
      have hm' := h'
      simp only [Memory.wfFrom, Bool.and_eq_true, decide_eq_true_eq, bne_iff_ne, ne_eq] at h'
      have hb : b = b' := by
        rcases Nat.lt_trichotomy b b' with hlt | heq | hgt
        · have := hg b
          rw [Memory.get_listed, if_pos rfl, Memory.get_listed, if_neg (by omega),
            Memory.get_of_lt_low h'.2 (by omega)] at this
          exact absurd this h.1.2
        · exact heq
        · have := hg b'
          rw [Memory.get_listed, if_neg (by omega), Memory.get_listed, if_pos rfl,
            Memory.get_of_lt_low h.2 (by omega)] at this
          exact absurd this.symm h'.1.2
      subst hb
      have hu : u = u' := by simpa [Memory.get_listed] using hg b
      subst hu
      have : m = m' := by
        refine ih h.2 h'.2 fun a => ?_
        by_cases hab : a = b
        · subst hab
          rw [Memory.get_of_lt_low h.2 (by omega), Memory.get_of_lt_low h'.2 (by omega)]
        · have := hg a
          rwa [Memory.get_listed, if_neg hab, Memory.get_listed, if_neg hab] at this
      rw [this]

/-! ### The access primitives -/

theorem spanFits_iff (addr n : Nat) : spanFits addr n = true ↔ n = 0 ∨ addr + n ≤ 4096 := by
  simp [spanFits]

theorem State.memRead_eq_some {s : State} {addr n : Nat} (h : n = 0 ∨ addr + n ≤ 4096) :
    s.memRead addr n = some ((List.range n).map fun i => s.mem.get (addr + i)) := by
  rw [State.memRead, if_pos ((spanFits_iff addr n).2 h)]

theorem State.memRead_eq_none {s : State} {addr n : Nat} (hn : n ≠ 0) (h : addr + n > 4096) :
    s.memRead addr n = none := by
  rw [State.memRead, if_neg]
  rw [spanFits_iff]
  omega

theorem State.memWrite_eq_some {s : State} {addr : Nat} {bs : List Byte} (h : addr + bs.length ≤ 4096) :
    s.memWrite addr bs = some { s with mem := s.mem.putBytes addr bs } := by
  rw [State.memWrite, if_pos ((spanFits_iff addr _).2 (.inr h))]

theorem State.memWrite_eq_none {s : State} {addr : Nat} {bs : List Byte} (hn : bs.length ≠ 0)
    (h : addr + bs.length > 4096) : s.memWrite addr bs = none := by
  rw [State.memWrite, if_neg]
  rw [spanFits_iff]
  omega

@[simp] theorem State.length_regsTo (s : State) (x : Reg) : (s.regsTo x).length = x.val + 1 := by
  simp [State.regsTo]

theorem State.getElem_regsTo (s : State) (x i : Reg) (h : i ≤ x) (d : Byte) : (s.regsTo x).getD i.val d = s.reg i := by
  have : i.val < x.val + 1 := Nat.lt_succ_of_le h
  simp [State.regsTo, State.reg, this]

end Sys2Proof.Machine
end

