-- ==== Sys2Proof/Laws/Ops.lean ====
section
/-! SUPPORT. What each shared operation over the call stack, the fetch and the keypad answers, said once. -/

namespace Sys2Proof.Machine

/-! ### The call stack -/

theorem State.push_eq_some {s : State} (a : Word) (h : s.sp.val < 16) :
    s.push a = some { s with stack := s.stack.set s.sp.val a, sp := ⟨s.sp.val + 1, by omega⟩ } := by
  rw [State.push, dif_pos h]

theorem State.push_eq_none {s : State} (a : Word) (h : ¬ s.sp.val < 16) : s.push a = none := by
  rw [State.push, dif_neg h]

theorem State.pop_eq_some {s : State} (h : 0 < s.sp.val) :
    s.pop = some (s.stack[s.sp.val - 1]'(by have := s.sp.isLt; omega),
      { s with sp := ⟨s.sp.val - 1, by have := s.sp.isLt; omega⟩ }) := by
  rw [State.pop, dif_pos h]

theorem State.pop_eq_none {s : State} (h : ¬ 0 < s.sp.val) : s.pop = none := by
  rw [State.pop, dif_neg h]

/-! ### The fetch -/

theorem State.fetch_ok {s : State} (h : s.pc.toNat < 0xFFF) (he : s.pc.toNat % 2 = 0) :
    s.fetch = .ok (wordOfBytes (s.mem.get s.pc.toNat) (s.mem.get (s.pc.toNat + 1))) := by
  rw [State.fetch, if_neg (by omega), if_neg (by omega)]

theorem State.fetch_outOfRange {s : State} (h : 0xFFF ≤ s.pc.toNat) : s.fetch = .error .outOfRangeAccess := by
  rw [State.fetch, if_pos (by omega)]

theorem State.fetch_misaligned {s : State} (h : s.pc.toNat < 0xFFF) (ho : s.pc.toNat % 2 = 1) :
    s.fetch = .error .misalignedFetch := by
  rw [State.fetch, if_neg (by omega), if_pos ho]

/-- A fetch that succeeds is from an even address of at most 0xFFE (R125). -/
theorem State.fetch_eq_ok {s : State} {w : Word} (h : s.fetch = .ok w) :
    s.pc.toNat < 0xFFF ∧ s.pc.toNat % 2 = 0 ∧
      w = wordOfBytes (s.mem.get s.pc.toNat) (s.mem.get (s.pc.toNat + 1)) := by
  unfold State.fetch at h
  split at h
  · cases h
  · split at h
    · cases h
    · exact ⟨by omega, by omega, by cases h; rfl⟩

/-- A fetch that fails names its cause (R230). -/
theorem State.fetch_error_ne_none {s : State} {c : HaltCause} (h : s.fetch = .error c) : c ≠ .none := by
  unfold State.fetch at h
  split at h
  · cases h; decide
  · split at h
    · cases h; decide
    · cases h

/-- The fetch depends on nothing but `pc` and memory (R66, R125). -/
theorem State.fetch_congr {s t : State} (hp : t.pc = s.pc) (hm : t.mem = s.mem) : t.fetch = s.fetch := by
  simp only [State.fetch, hp, hm]

/-- Decoding the two bytes at a fetchable `pc` is decoding the fetched word. -/
theorem decode_two_bytes (hi lo : Byte) (i : Instr) :
    decode [hi, lo] = .ok (i, []) ↔ decodeWord (wordOfBytes hi lo) = .ok i := by
  simp only [decode]
  generalize decodeWord (wordOfBytes hi lo) = o
  cases o <;> simp

/-! ### The keypad -/

@[simp] theorem keypadOf_getElem (keys : BitVec 16) (k : Nat) (h : k < 16) : (keypadOf keys)[k] = keys.getLsbD k := by
  simp [keypadOf, BitVec.getLsbD_eq_getElem h]

@[simp] theorem noKeys_getElem (k : Nat) (h : k < 16) : noKeys[k] = false := by
  simp [noKeys]

theorem lowestKey_eq_some {keypad : Vector Bool 16} {k : Key} (h : keypad[k.val] = true)
    (hlow : ∀ j : Key, j < k → keypad[j.val] = false) : lowestKey keypad = some k := by
  rw [lowestKey, List.find?_eq_some_iff_getElem]
  exact ⟨h, k.val, by simp, by simp, fun j hj => by simpa using hlow ⟨j, by omega⟩ hj⟩

theorem lowestKey_eq_none {keypad : Vector Bool 16} (h : ∀ k : Key, keypad[k.val] = false) :
    lowestKey keypad = none := by
  rw [lowestKey, List.find?_eq_none]
  exact fun k _ => by simp [h k]

/-- The keypad sampled from no key at all has no lowest key. -/
theorem lowestKey_keypadOf_zero : lowestKey (keypadOf 0#16) = none :=
  lowestKey_eq_none fun k => by simp

/-- A value below 16 names the key of that index (R160). -/
theorem State.keyPressed_of_lt {s : State} {b : Byte} (h : b.toNat < 16) : s.keyPressed b = s.keypad[b.toNat] := by
  simp [State.keyPressed, h]

/-- A value of 16 or more names no key and reads as not pressed (R160). -/
theorem State.keyPressed_of_ge {s : State} {b : Byte} (h : 16 ≤ b.toNat) : s.keyPressed b = false := by
  simp [State.keyPressed, h]

/-! ### Phase 2 -/

@[simp] theorem State.resolveKeyWait_of_normal {s : State} (h : s.runState = .normal) : s.resolveKeyWait = s := by
  simp [State.resolveKeyWait, h]

@[simp] theorem State.resolveKeyWait_of_halted {s : State} (h : s.runState = .halted) : s.resolveKeyWait = s := by
  simp [State.resolveKeyWait, h]

/-- What phase 2 can do: leave the state alone, or end a wait by writing the lowest key (R124). -/
theorem State.resolveKeyWait_cases (s : State) :
    (s.resolveKeyWait = s ∧ ∀ t, s.runState = .waitingForKey t → lowestKey s.keypad = none) ∨
    (∃ t k, s.runState = .waitingForKey t ∧ lowestKey s.keypad = some k ∧
      s.resolveKeyWait = (s.setReg t (BitVec.ofNat 8 k.val)).setRunState .normal) := by
  unfold State.resolveKeyWait
  cases h : s.runState with
  | normal => exact .inl ⟨rfl, by simp⟩
  | halted => exact .inl ⟨rfl, by simp⟩
  | waitingForKey t =>
    cases hk : lowestKey s.keypad with
    | none => exact .inl ⟨rfl, fun _ _ => rfl⟩
    | some k => exact .inr ⟨t, k, rfl, rfl, rfl⟩

/-! ### The timers -/

/-- A timer counts down and rests at zero (R130). -/
@[simp] theorem tick_toNat (b : Byte) : (tick b).toNat = b.toNat - 1 := by
  unfold tick
  split
  · next h => subst h; rfl
  · next h =>
    have : b.toNat ≠ 0 := fun h0 => h (BitVec.eq_of_toNat_eq h0)
    have := b.isLt
    simp only [BitVec.toNat_sub, BitVec.toNat_ofNat]
    omega

end Sys2Proof.Machine
end

