-- ==== Sys2Proof/Laws/Exec.lean ====
section
/-! SUPPORT. The instructions that may raise, each with one equation where it has its effect and one where it halts. The
other instructions' meanings are equations already. -/

namespace Sys2Proof.Machine

theorem exec_ret_of_live {s : State} (h : 0 < s.sp.val) :
    exec .ret s = .next ({ s with sp := ⟨s.sp.val - 1, by have := s.sp.isLt; omega⟩ }.setPc
      (s.stack[s.sp.val - 1]'(by have := s.sp.isLt; omega) + 2#16)) := by
  show execRet s = _
  rw [execRet, State.pop_eq_some h]

theorem exec_ret_of_empty {s : State} (h : s.sp.val = 0) :
    exec .ret s = .next (s.raise .emptyCallStackReturn (encode .ret) s.pc) := by
  show execRet s = _
  rw [execRet, State.pop_eq_none (by omega)]

theorem exec_call_of_free {s : State} (nnn : Addr) (h : s.sp.val < 16) :
    exec (.call nnn) s = .next ({ s with stack := s.stack.set s.sp.val s.pc, sp := ⟨s.sp.val + 1, by omega⟩ }.setPc
      (addrWord nnn)) := by
  show execCall nnn s = _
  rw [execCall, State.push_eq_some s.pc h]

theorem exec_call_of_full {s : State} (nnn : Addr) (h : s.sp.val = 16) :
    exec (.call nnn) s = .next (s.raise .stackOverflow (encode (.call nnn)) s.pc) := by
  show execCall nnn s = _
  rw [execCall, State.push_eq_none s.pc (by omega)]

theorem exec_ldMemVx_of_fits {s : State} (x : Reg) (h : s.l.toNat + x.val + 1 ≤ 4096) :
    exec (.ldMemVx x) s = .next { s with mem := s.mem.putBytes s.l.toNat (s.regsTo x) }.advance := by
  show execLdMemVx x s = _
  rw [execLdMemVx, State.memWrite_eq_some (by rw [State.length_regsTo]; omega)]

theorem exec_ldMemVx_of_leaves {s : State} (x : Reg) (h : s.l.toNat + x.val + 1 > 4096) :
    exec (.ldMemVx x) s = .next (s.raise .outOfRangeAccess (encode (.ldMemVx x)) s.l) := by
  show execLdMemVx x s = _
  rw [execLdMemVx, State.memWrite_eq_none (by rw [State.length_regsTo]; omega) (by rw [State.length_regsTo]; omega)]

theorem exec_ldVxMem_of_fits {s : State} (x : Reg) (h : s.l.toNat + x.val + 1 ≤ 4096) :
    exec (.ldVxMem x) s =
      .next (s.setRegs ((List.range (x.val + 1)).map fun i => s.mem.get (s.l.toNat + i))).advance := by
  show execLdVxMem x s = _
  rw [execLdVxMem, State.memRead_eq_some (.inr (by omega))]

theorem exec_ldVxMem_of_leaves {s : State} (x : Reg) (h : s.l.toNat + x.val + 1 > 4096) :
    exec (.ldVxMem x) s = .next (s.raise .outOfRangeAccess (encode (.ldVxMem x)) s.l) := by
  show execLdVxMem x s = _
  rw [execLdVxMem, State.memRead_eq_none (by omega) (by omega)]

/-- The blit that a draw runs: the sprite bytes at `L`, at the start position of the two registers. -/
def State.drawBlit (s : State) (x y : Reg) (n : Count) : BlitState :=
  runBlit s.disp (startColumn (s.reg x)) (startRow (s.reg y))
    ((List.range n.val).map fun i => s.mem.get (s.l.toNat + i))

theorem exec_drw_of_fits {s : State} (x y : Reg) (n : Count) (h : n.val = 0 ∨ s.l.toNat + n.val ≤ 4096) :
    exec (.drw x y n) s = .next (s.takeBlit (s.drawBlit x y n)).advance := by
  show execDrw x y n s = _
  rw [execDrw, State.memRead_eq_some h]
  rfl

theorem exec_drw_of_leaves {s : State} (x y : Reg) (n : Count) (hn : n.val ≥ 1) (h : s.l.toNat + n.val > 4096) :
    exec (.drw x y n) s = .next (s.raise .outOfRangeAccess (encode (.drw x y n)) s.l) := by
  show execDrw x y n s = _
  rw [execDrw, State.memRead_eq_none (by omega) h]

/-! ### What an instruction can do

Either it raises, and the state is the halt entry of the state before it, or it has its effect: for the five instructions
that may raise, one of the equations above. -/

theorem exec_ret_cases (s : State) :
    (s.sp.val = 0 ∧ exec .ret s = .next (s.raise .emptyCallStackReturn (encode .ret) s.pc)) ∨
    (∃ h : 0 < s.sp.val, exec .ret s =
      .next ({ s with sp := ⟨s.sp.val - 1, by have := s.sp.isLt; omega⟩ }.setPc
        (s.stack[s.sp.val - 1]'(by have := s.sp.isLt; omega) + 2#16))) := by
  by_cases h : s.sp.val = 0
  · exact .inl ⟨h, exec_ret_of_empty h⟩
  · exact .inr ⟨by omega, exec_ret_of_live (by omega)⟩

theorem exec_call_cases (nnn : Addr) (s : State) :
    (s.sp.val = 16 ∧ exec (.call nnn) s = .next (s.raise .stackOverflow (encode (.call nnn)) s.pc)) ∨
    (∃ h : s.sp.val < 16, exec (.call nnn) s =
      .next ({ s with stack := s.stack.set s.sp.val s.pc, sp := ⟨s.sp.val + 1, by omega⟩ }.setPc (addrWord nnn))) := by
  by_cases h : s.sp.val < 16
  · exact .inr ⟨h, exec_call_of_free nnn h⟩
  · exact .inl ⟨by omega, exec_call_of_full nnn (by omega)⟩

theorem exec_ldMemVx_cases (x : Reg) (s : State) :
    (s.l.toNat + x.val + 1 > 4096 ∧
      exec (.ldMemVx x) s = .next (s.raise .outOfRangeAccess (encode (.ldMemVx x)) s.l)) ∨
    (s.l.toNat + x.val + 1 ≤ 4096 ∧
      exec (.ldMemVx x) s = .next { s with mem := s.mem.putBytes s.l.toNat (s.regsTo x) }.advance) := by
  by_cases h : s.l.toNat + x.val + 1 ≤ 4096
  · exact .inr ⟨h, exec_ldMemVx_of_fits x h⟩
  · exact .inl ⟨by omega, exec_ldMemVx_of_leaves x (by omega)⟩

theorem exec_ldVxMem_cases (x : Reg) (s : State) :
    (s.l.toNat + x.val + 1 > 4096 ∧
      exec (.ldVxMem x) s = .next (s.raise .outOfRangeAccess (encode (.ldVxMem x)) s.l)) ∨
    (s.l.toNat + x.val + 1 ≤ 4096 ∧ exec (.ldVxMem x) s =
      .next (s.setRegs ((List.range (x.val + 1)).map fun i => s.mem.get (s.l.toNat + i))).advance) := by
  by_cases h : s.l.toNat + x.val + 1 ≤ 4096
  · exact .inr ⟨h, exec_ldVxMem_of_fits x h⟩
  · exact .inl ⟨by omega, exec_ldVxMem_of_leaves x (by omega)⟩

theorem exec_drw_cases (x y : Reg) (n : Count) (s : State) :
    (n.val ≥ 1 ∧ s.l.toNat + n.val > 4096 ∧
      exec (.drw x y n) s = .next (s.raise .outOfRangeAccess (encode (.drw x y n)) s.l)) ∨
    ((n.val = 0 ∨ s.l.toNat + n.val ≤ 4096) ∧
      exec (.drw x y n) s = .next (s.takeBlit (s.drawBlit x y n)).advance) := by
  by_cases h : n.val = 0 ∨ s.l.toNat + n.val ≤ 4096
  · exact .inr ⟨h, exec_drw_of_fits x y n h⟩
  · exact .inl ⟨by omega, by omega, exec_drw_of_leaves x y n (by omega) (by omega)⟩

end Sys2Proof.Machine
end

