-- ==== Sys2Proof/Laws/Draw.lean ====
section
/-! SUPPORT. The laws of a whole draw: which cells a sprite touches and in which order, and what the blit of a draw
leaves, in the terms of Safety. -/

namespace Sys2Proof.Machine

/-- A sprite row touches the cells of its own display row under its set bits (R212). -/
theorem mem_spriteRowCells (x0 : Fin 64) (yy : Fin 32) (row : Byte) (r : Fin 32) (c : Fin 64) :
    (r, c) ∈ spriteRowCells x0 yy row ↔
      r = yy ∧ spriteColumn x0.val c < 8 ∧ row.getLsbD (7 - spriteColumn x0.val c) = true := by
  simp only [spriteRowCells, List.mem_map, List.mem_filter, List.mem_range, Prod.mk.injEq, wrapColumn, spriteColumn,
    Fin.ext_iff]
  constructor
  · rintro ⟨k, ⟨hk, hb⟩, hr, hc⟩
    have : (c.val + (64 - x0.val % 64)) % 64 = k := by omega
    rw [this]
    exact ⟨hr.symm, hk, hb⟩
  · rintro ⟨hr, hk, hb⟩
    exact ⟨_, ⟨hk, hb⟩, hr.symm, by omega⟩

/-- A sprite touches exactly the cells it covers (R212, R215). -/
theorem mem_spriteCells (x0 : Fin 64) (y0 : Nat) (rows : List Byte) (r : Fin 32) (c : Fin 64) :
    (r, c) ∈ spriteCells x0 y0 rows ↔ spriteCovers x0.val y0 rows.length (fun i => rows.getD i 0#8) r c = true := by
  induction rows generalizing y0 with
  | nil => simp [spriteCells, spriteCovers]
  | cons row rows ih =>
    rw [spriteCells, List.mem_append, ih]
    have : (r, c) ∈ (if h : y0 < 32 then spriteRowCells x0 ⟨y0, h⟩ row else []) ↔
        r.val = y0 ∧ spriteColumn x0.val c < 8 ∧ row.getLsbD (7 - spriteColumn x0.val c) = true := by
      split
      · rw [mem_spriteRowCells]; simp [Fin.ext_iff]
      · simp; omega
    rw [this]
    simp only [spriteCovers, Bool.and_eq_true, decide_eq_true_eq, List.length_cons]
    rcases Nat.lt_trichotomy r.val y0 with h | h | h
    · constructor
      · rintro (h1 | h1) <;> omega
      · rintro ⟨⟨⟨h1, _⟩, _⟩, _⟩; omega
    · subst h
      simp
    · obtain ⟨k, hk⟩ : ∃ k, r.val - y0 = k + 1 := ⟨r.val - y0 - 1, by omega⟩
      have hk' : r.val - (y0 + 1) = k := by omega
      rw [hk, hk']
      simp only [List.getD_cons_succ]
      constructor
      · rintro (h1 | ⟨⟨⟨h1, h2⟩, h3⟩, h4⟩)
        · omega
        · exact ⟨⟨⟨by omega, by omega⟩, h3⟩, h4⟩
      · rintro ⟨⟨⟨h1, h2⟩, h3⟩, h4⟩
        exact .inr ⟨⟨⟨by omega, by omega⟩, h3⟩, h4⟩

/-- The cells come row by row, and within a row by the column of the sprite (R213). -/
theorem spriteCells_pairwise (x0 : Fin 64) (y0 : Nat) (rows : List Byte) :
    (spriteCells x0 y0 rows).Pairwise fun a b =>
      a.1 < b.1 ∨ (a.1 = b.1 ∧ spriteColumn x0.val a.2 < spriteColumn x0.val b.2) := by
  induction rows generalizing y0 with
  | nil => exact .nil
  | cons row rows ih =>
    rw [spriteCells, List.pairwise_append]
    refine ⟨?_, ih _, ?_⟩
    · split
      · rw [spriteRowCells, List.pairwise_map]
        refine List.Pairwise.imp_of_mem ?_ (List.Pairwise.filter _ (List.pairwise_lt_range (n := 8)))
        intro a b ha hb hab
        simp only [List.mem_filter, List.mem_range] at ha hb
        refine .inr ⟨rfl, ?_⟩
        simp only [spriteColumn, wrapColumn]
        omega
      · exact .nil
    · intro a ha b hb
      left
      obtain ⟨ra, ca⟩ := a
      obtain ⟨rb, cb⟩ := b
      rw [mem_spriteCells] at hb
      simp only [spriteCovers, Bool.and_eq_true, decide_eq_true_eq] at hb
      split at ha
      · rw [mem_spriteRowCells] at ha
        obtain ⟨rfl, -⟩ := ha
        simp only [Fin.lt_def]
        omega
      · simp at ha

/-- No cell is touched twice in one draw. -/
theorem nodup_spriteCells (x0 : Fin 64) (y0 : Nat) (rows : List Byte) : (spriteCells x0 y0 rows).Nodup :=
  (spriteCells_pairwise x0 y0 rows).imp fun h heq => by subst heq; rcases h with h | ⟨-, h⟩ <;> exact lt_irrefl _ h

/-- The blit of a draw: the covered pixels are flipped, a covered set pixel is noted, and the covered cells are reported
in order (R211 to R215). -/
theorem drawBlit_spec (s : State) (x y : Reg) (n : Count) :
    (∀ r c, (s.drawBlit x y n).disp.pixel r c = (s.disp.pixel r c != s.drawCovers x y n r c)) ∧
    ((s.drawBlit x y n).erased = true ↔ ∃ r c, s.drawCovers x y n r c = true ∧ s.disp.pixel r c = true) ∧
    (s.drawBlit x y n).transitions = (spriteCells (startColumn (s.reg x)) (startRow (s.reg y)).val
      ((List.range n.val).map fun i => s.mem.get (s.l.toNat + i))).map (flipReport s.disp) := by
  have hmem : ∀ r c, ((r, c) ∈ spriteCells (startColumn (s.reg x)) (startRow (s.reg y)).val
      ((List.range n.val).map fun i => s.mem.get (s.l.toNat + i))) ↔ s.drawCovers x y n r c = true := by
    intro r c
    rw [mem_spriteCells]
    simp only [State.drawCovers, spriteCovers, Bool.and_eq_true, decide_eq_true_eq]
    simp only [startColumn, startRow, List.length_map, List.length_range]
    by_cases h : r.val - (s.reg y).toNat % 32 < n.val
    · simp [h]
    · simp [h]
  obtain ⟨h1, h2, h3⟩ := foldl_flipPixel (spriteCells (startColumn (s.reg x)) (startRow (s.reg y)).val
      ((List.range n.val).map fun i => s.mem.get (s.l.toNat + i))) ⟨s.disp, false, []⟩ (nodup_spriteCells _ _ _)
  refine ⟨fun r c => ?_, ?_, ?_⟩
  · rw [State.drawBlit, runBlit, h1, Bool.decide_congr (hmem r c)]; simp
  · rw [State.drawBlit, runBlit, h2, Bool.false_or, List.any_eq_true]
    constructor
    · rintro ⟨⟨r, c⟩, hm, hp⟩; exact ⟨r, c, (hmem r c).1 hm, hp⟩
    · rintro ⟨r, c, hm, hp⟩; exact ⟨⟨r, c⟩, (hmem r c).2 hm, hp⟩
  · rw [State.drawBlit, runBlit, h3]; simp

end Sys2Proof.Machine
end

