-- ==== Sys2Proof/Laws/Frame.lean ====
section
/-! SUPPORT. What a frame can do, said once: the equation of a step in each of the three situations at phase 3, and the
inversion of a step into its five cases. -/

namespace Sys2Proof.Machine

/-- Close the frame of an outcome of phase 3. -/
def closeOutcome : Host.Outcome State Fault Refusal → Host.Outcome State Fault Refusal
  | .next t => .next t.closeFrame
  | .fault r => .fault r
  | .refused r => .refused r

theorem State.atPhase3_of_normal {s : State} (h : s.runState = .normal) : s.atPhase3 = s.openFrame := by
  rw [State.atPhase3, State.resolveKeyWait_of_normal (by simp [h])]

/-- A frame that starts halted does nothing (R122). -/
theorem step_of_halted {s : State} (h : s.runState = .halted) : step s = .next s.clearOutputs.nextInput := by
  simp only [step, runFrame, h]

theorem step_eq_runPhases {s : State} (h : s.running) : step s = runPhases s.atPhase3 := by
  unfold step runFrame
  cases hr : s.runState with
  | halted => exact absurd hr h
  | normal => rfl
  | waitingForKey t => rfl

/-- Phase 2 never halts and never arms a wait (R124, R30). -/
theorem State.atPhase3_runState (s : State) : s.atPhase3.runState = s.runState ∨ s.atPhase3.runState = .normal := by
  rcases State.resolveKeyWait_cases s.openFrame with ⟨h, -⟩ | ⟨t, k, -, -, h⟩
  · exact .inl (by rw [State.atPhase3, h, State.openFrame_runState])
  · exact .inr (by rw [State.atPhase3, h, State.setRunState_runState])

/-- A frame at whose phase 3 the machine is in `Normal` runs an instruction (R121). -/
theorem step_of_normal {s : State} (h : s.running) (hn : s.atPhase3.runState = .normal) :
    step s = closeOutcome (runInstruction s.atPhase3) := by
  rw [step_eq_runPhases h, runPhases, hn]
  cases runInstruction s.atPhase3 <;> rfl

/-- A frame that is still waiting at phase 3 fetches nothing (R121, R248). -/
theorem step_of_waiting {s : State} {r : Reg} (h : s.running) (hw : s.atPhase3.runState = .waitingForKey r) :
    step s = .next s.openFrame.closeFrame ∧ s.atPhase3 = s.openFrame := by
  have heq : s.atPhase3 = s.openFrame := by
    rcases State.resolveKeyWait_cases s.openFrame with ⟨h, -⟩ | ⟨t, k, -, -, h⟩
    · exact h
    · rw [State.atPhase3, h, State.setRunState_runState] at hw
      cases hw
  rw [heq] at hw
  rw [step_eq_runPhases h, heq, runPhases, hw]
  exact ⟨rfl, rfl⟩

/-- What a frame can do: nothing (halted), wait, halt at the fetch, halt at the decode, or run one instruction. -/
theorem step_cases {s t : State} (h : step s = .next t) :
    (s.runState = .halted ∧ t = s.clearOutputs.nextInput) ∨
    (s.running ∧ (∃ r, s.runState = .waitingForKey r) ∧ s.atPhase3 = s.openFrame ∧ t = s.openFrame.closeFrame) ∨
    (s.running ∧ s.atPhase3.runState = .normal ∧ ∃ c, s.atPhase3.fetch = .error c ∧
      t = (s.atPhase3.raise c 0x0000#16 s.atPhase3.pc).closeFrame) ∨
    (s.running ∧ s.atPhase3.runState = .normal ∧ ∃ w e, s.atPhase3.fetch = .ok w ∧ decodeWord w = .error e ∧
      t = (s.atPhase3.raise .unrecognizedOpcode w s.atPhase3.pc).closeFrame) ∨
    (s.running ∧ s.atPhase3.runState = .normal ∧ ∃ w i u, s.atPhase3.fetch = .ok w ∧ decodeWord w = .ok i ∧
      exec i s.atPhase3 = .next u ∧ t = u.closeFrame) := by
  by_cases hh : s.runState = .halted
  · rw [step_of_halted hh] at h
    exact .inl ⟨hh, by cases h; rfl⟩
  refine .inr ?_
  cases hp : s.atPhase3.runState with
  | halted =>
    rcases s.atPhase3_runState with h3 | h3
    · exact absurd (h3.symm.trans hp) hh
    · rw [hp] at h3; cases h3
  | waitingForKey r =>
    obtain ⟨hs, heq⟩ := step_of_waiting hh hp
    rw [hs] at h
    refine .inl ⟨hh, ⟨r, ?_⟩, heq, by cases h; rfl⟩
    rwa [heq, State.openFrame_runState] at hp
  | normal =>
    refine .inr ?_
    rw [step_of_normal hh hp, runInstruction] at h
    cases hf : s.atPhase3.fetch with
    | error c =>
      rw [hf] at h
      exact .inl ⟨hh, rfl, c, rfl, by cases h; rfl⟩
    | ok w =>
      refine .inr ?_
      rw [hf] at h
      cases hd : decodeWord w with
      | error e =>
        simp only [hd] at h
        exact .inl ⟨hh, rfl, w, e, rfl, hd, by cases h; rfl⟩
      | ok i =>
        simp only [hd] at h
        cases he : exec i s.atPhase3 with
        | next u =>
          rw [he] at h
          exact .inr ⟨hh, rfl, w, i, u, rfl, hd, he, by cases h; rfl⟩
        | fault r => exact nomatch r
        | refused r => rw [he] at h; cases h

end Sys2Proof.Machine
end

