-- ==== Sys2Proof/Laws/PerInstr.lean ====
section
/-! SUPPORT. Per instruction, about the instruction as syntax: the word of a well-formed instruction fits the row of the
opcode table that the instruction stands for (30_encoding.md rule R95). -/

namespace Sys2Proof.Laws.RowFit

/-- The word of a well-formed instruction fits its row: under the row's mask it has the row's pattern, and it is none of
the words the row excludes. -/
def Statement (i : Instr) : Prop := i.wf = true → i.row.fits (encode i) = true

/-- The class mask leaves the class of a word. -/
theorem and_classMask (w : Word) : w &&& 0xF000#16 = BitVec.ofNat 16 (fieldOp w * 0x1000) := by
  have h : w &&& 0xF000#16 = (w >>> 12) <<< 12 := by
    refine BitVec.eq_of_getLsbD_eq fun i hi => ?_
    interval_cases i <;> simp
  refine BitVec.eq_of_toNat_eq ?_
  rw [h, fieldOp_eq]
  simp only [BitVec.toNat_shiftLeft, BitVec.toNat_ushiftRight, BitVec.toNat_ofNat, Nat.shiftRight_eq_div_pow,
    Nat.shiftLeft_eq]

theorem fits_nnn {op : Nat} (h : op < 0x10) (nnn : Addr) :
    OpcodeRow.fits ⟨0xF000#16, BitVec.ofNat 16 (op * 0x1000), []⟩ (packNnn op nnn) = true := by
  simp [OpcodeRow.fits, and_classMask, (fields_packNnn h nnn).1]

theorem fits_xkk {op : Nat} (h : op < 0x10) (x : Reg) (kk : Byte) :
    OpcodeRow.fits ⟨0xF000#16, BitVec.ofNat 16 (op * 0x1000), []⟩ (packXkk op x kk) = true := by
  simp [OpcodeRow.fits, and_classMask, (fields_packXkk h x kk).1]

theorem fits_xyn {op : Nat} (h : op < 0x10) (x y : Reg) (n : Count) :
    OpcodeRow.fits ⟨0xF000#16, BitVec.ofNat 16 (op * 0x1000), []⟩ (packXyn op x y n) = true := by
  simp [OpcodeRow.fits, and_classMask, (fields_packXyn h x y n).1]

/-- A word of format NNN with class 0 is the word of its address. -/
theorem packNnn_zero (nnn : Addr) (a : Nat) (h : packNnn 0 nnn = BitVec.ofNat 16 a) :
    nnn = BitVec.ofNat 12 a := by
  have := congrArg BitVec.toNat h
  refine BitVec.eq_of_toNat_eq ?_
  rw [packNnn_toNat (by decide), BitVec.toNat_ofNat] at this
  rw [BitVec.toNat_ofNat]
  omega

theorem cls : Statement (.cls) := by
  intro _; decide

theorem ret : Statement (.ret) := by
  intro _; decide

theorem sys (nnn : Addr) : Statement (.sys nnn) := by
  intro h
  simp only [Instr.wf, Bool.and_eq_true, bne_iff_ne, ne_eq] at h
  have h1 : packNnn 0 nnn ≠ 0x00E0#16 := fun he => h.1 (packNnn_zero nnn 0x0E0 he)
  have h2 : packNnn 0 nnn ≠ 0x00EE#16 := fun he => h.2 (packNnn_zero nnn 0x0EE he)
  simp [OpcodeRow.fits, Instr.row, encode, and_classMask, (fields_packNnn (by decide : 0 < 0x10) nnn).1, h1, h2]

theorem jp (nnn : Addr) : Statement (.jp nnn) :=
  fun _ => fits_nnn (op := 0x1) (by decide) nnn

theorem call (nnn : Addr) : Statement (.call nnn) :=
  fun _ => fits_nnn (op := 0x2) (by decide) nnn

theorem seImm (x : Reg) (kk : Byte) : Statement (.seImm x kk) :=
  fun _ => fits_xkk (op := 0x3) (by decide) x kk

theorem sneImm (x : Reg) (kk : Byte) : Statement (.sneImm x kk) :=
  fun _ => fits_xkk (op := 0x4) (by decide) x kk

theorem seReg (x y : Reg) : Statement (.seReg x y) := by
  intro _; revert x y; decide

theorem ldImm (x : Reg) (kk : Byte) : Statement (.ldImm x kk) :=
  fun _ => fits_xkk (op := 0x6) (by decide) x kk

theorem addImm (x : Reg) (kk : Byte) : Statement (.addImm x kk) :=
  fun _ => fits_xkk (op := 0x7) (by decide) x kk

theorem ldReg (x y : Reg) : Statement (.ldReg x y) := by
  intro _; revert x y; decide

theorem orReg (x y : Reg) : Statement (.orReg x y) := by
  intro _; revert x y; decide

theorem andReg (x y : Reg) : Statement (.andReg x y) := by
  intro _; revert x y; decide

theorem xorReg (x y : Reg) : Statement (.xorReg x y) := by
  intro _; revert x y; decide

theorem addReg (x y : Reg) : Statement (.addReg x y) := by
  intro _; revert x y; decide

theorem sub (x y : Reg) : Statement (.sub x y) := by
  intro _; revert x y; decide

theorem shr (x y : Reg) : Statement (.shr x y) := by
  intro _; revert x y; decide

theorem subn (x y : Reg) : Statement (.subn x y) := by
  intro _; revert x y; decide

theorem shl (x y : Reg) : Statement (.shl x y) := by
  intro _; revert x y; decide

theorem sneReg (x y : Reg) : Statement (.sneReg x y) := by
  intro _; revert x y; decide

theorem ldL (nnn : Addr) : Statement (.ldL nnn) :=
  fun _ => fits_nnn (op := 0xA) (by decide) nnn

theorem jpV0 (nnn : Addr) : Statement (.jpV0 nnn) :=
  fun _ => fits_nnn (op := 0xB) (by decide) nnn

theorem rnd (x : Reg) (kk : Byte) : Statement (.rnd x kk) :=
  fun _ => fits_xkk (op := 0xC) (by decide) x kk

theorem drw (x y : Reg) (n : Count) : Statement (.drw x y n) :=
  fun _ => fits_xyn (op := 0xD) (by decide) x y n

theorem skp (x : Reg) : Statement (.skp x) := by
  intro _; revert x; decide

theorem sknp (x : Reg) : Statement (.sknp x) := by
  intro _; revert x; decide

theorem ldVxDt (x : Reg) : Statement (.ldVxDt x) := by
  intro _; revert x; decide

theorem ldVxK (x : Reg) : Statement (.ldVxK x) := by
  intro _; revert x; decide

theorem ldDtVx (x : Reg) : Statement (.ldDtVx x) := by
  intro _; revert x; decide

theorem ldStVx (x : Reg) : Statement (.ldStVx x) := by
  intro _; revert x; decide

theorem addLVx (x : Reg) : Statement (.addLVx x) := by
  intro _; revert x; decide

theorem ldFVx (x : Reg) : Statement (.ldFVx x) := by
  intro _; revert x; decide

theorem ldMemVx (x : Reg) : Statement (.ldMemVx x) := by
  intro _; revert x; decide

theorem ldVxMem (x : Reg) : Statement (.ldVxMem x) := by
  intro _; revert x; decide

end Sys2Proof.Laws.RowFit
end

