-- ==== Sys2Proof/Tests/Slice0.lean ====
section
/-! SUPPORT. The model's own tests. Expected results are those of 95_test_vectors.md (the row is named in the comment of a
test) or are worked out by hand from the rule named there. The witnesses at the end show that the hypotheses of each
statement can be met, one for each clause, at the edges of the ranges. -/

namespace Sys2Proof.Tests

open Sys2Proof Sys2Proof.Machine

/-! ### Helpers: small states, and what a step or an instruction leaves -/

/-- The reset state with named inputs: no key, random byte zero. -/
def start : State := { State.reset with inputs := [⟨0x0000#16, 0x00#8⟩] }

/-- Some registers set. -/
def setV (l : List (Reg × Byte)) (s : State) : State := l.foldl (fun s p => s.setReg p.1 p.2) s

/-- Bytes placed in memory. -/
def bytesAt (a : Nat) (bs : List Byte) (s : State) : State := { s with mem := s.mem.putBytes a bs }

/-- An instruction word placed at `pc`, the high byte first. -/
def code (hi lo : Byte) (s : State) : State := bytesAt s.pc.toNat [hi, lo] s

/-- The inputs of the frame. -/
def input (keys : BitVec 16) (rnd : Byte) (s : State) : State := { s with inputs := [⟨keys, rnd⟩] }

/-- Some pixels set, each by column and row. -/
def setPixels (l : List (Fin 64 × Fin 32)) (s : State) : State :=
  { s with disp := l.foldl (fun d p => d.setPixel p.2 p.1 true) s.disp }

/-- Whether the display has exactly these pixels set, each by column and row. -/
def pixelsAre (l : List (Fin 64 × Fin 32)) (s : State) : Bool := decide (s.disp = (setPixels l State.reset).disp)

/-- Transitions of one kind, each by column and row. -/
def reported (k : TransitionKind) (l : List (Fin 64 × Fin 32)) : List Transition := l.map fun p => ⟨p.1, p.2, k⟩

/-- Whether the step answers a next state with a property. -/
def after (s : State) (p : State → Bool) : Bool :=
  match step s with
  | .next t => p t
  | .fault _ => false
  | .refused _ => false

/-- Whether an instruction answers a next state with a property. -/
def execAfter (i : Instr) (s : State) (p : State → Bool) : Bool :=
  match exec i s with
  | .next t => p t
  | .fault _ => false
  | .refused _ => false

theorem exists_of_after {s : State} {p : State → Bool} (h : after s p = true) : ∃ t, step s = .next t ∧ p t = true := by
  unfold after at h
  split at h
  · next t ht => exact ⟨t, ht, h⟩
  · cases h
  · cases h

theorem exists_of_execAfter {i : Instr} {s : State} {p : State → Bool} (h : execAfter i s p = true) :
    ∃ t, exec i s = .next t ∧ p t = true := by
  unfold execAfter at h
  split at h
  · next t ht => exact ⟨t, ht, h⟩
  · cases h
  · cases h

/-- Whether a state is `Halted` with this record. -/
def haltedWith (c : HaltCause) (w a : Word) (t : State) : Bool :=
  decide (t.runState = .halted) && decide (t.haltCause = c) && t.haltWord == w && t.haltAddr == a

/-! ### WellFormed: what the check refuses

The fields of a term are bounded by their types; the one check left is that `SYS` is not one of the two words that the
map gives to CLS and RET (30_encoding.md R94). -/

theorem test_wf_refuses_sys_0E0 : (Instr.sys 0x0E0).wf = false := by decide
theorem test_wf_refuses_sys_0EE : (Instr.sys 0x0EE).wf = false := by decide
theorem test_wf_accepts_their_neighbours :
    (Instr.sys 0x0E1).wf = true ∧ (Instr.sys 0x0EF).wf = true ∧ Instr.cls.wf = true ∧ Instr.ret.wf = true := by decide

/-! ### Decoding: 95_test_vectors.md part 2.1, every constructor -/

theorem test_decode_class0 :
    decode [0x00, 0xE0] = .ok (.cls, []) ∧ decode [0x00, 0xEE] = .ok (.ret, []) ∧
    decode [0x0F, 0xFF] = .ok (.sys 0xFFF, []) ∧ decode [0x00, 0x00] = .ok (.sys 0x000, []) ∧
    decode [0x00, 0xFF] = .ok (.sys 0x0FF, []) := by decide

theorem test_decode_control_flow :
    decode [0x1A, 0xBC] = .ok (.jp 0xABC, []) ∧ decode [0x22, 0x14] = .ok (.call 0x214, []) ∧
    decode [0x3A, 0x7F] = .ok (.seImm 0xA 0x7F, []) ∧ decode [0x4A, 0x7F] = .ok (.sneImm 0xA 0x7F, []) ∧
    decode [0x5A, 0xB0] = .ok (.seReg 0xA 0xB, []) ∧ decode [0x9A, 0xB0] = .ok (.sneReg 0xA 0xB, []) ∧
    decode [0xB3, 0x00] = .ok (.jpV0 0x300, []) ∧ decode [0xE5, 0x9E] = .ok (.skp 5, []) ∧
    decode [0xE5, 0xA1] = .ok (.sknp 5, []) := by decide

theorem test_decode_register_moves :
    decode [0x6A, 0x3C] = .ok (.ldImm 0xA 0x3C, []) ∧ decode [0x71, 0x05] = .ok (.addImm 1 0x05, []) ∧
    decode [0x81, 0x20] = .ok (.ldReg 1 2, []) ∧ decode [0x81, 0x21] = .ok (.orReg 1 2, []) ∧
    decode [0x81, 0x22] = .ok (.andReg 1 2, []) ∧ decode [0x81, 0x23] = .ok (.xorReg 1 2, []) ∧
    decode [0xC3, 0x0F] = .ok (.rnd 3 0x0F, []) := by decide

theorem test_decode_register_arithmetic :
    decode [0x81, 0x24] = .ok (.addReg 1 2, []) ∧ decode [0x81, 0x25] = .ok (.sub 1 2, []) ∧
    decode [0x81, 0x26] = .ok (.shr 1 2, []) ∧ decode [0x81, 0x27] = .ok (.subn 1 2, []) ∧
    decode [0x81, 0x2E] = .ok (.shl 1 2, []) := by decide

theorem test_decode_index_and_memory :
    decode [0xA3, 0x00] = .ok (.ldL 0x300, []) ∧ decode [0xF2, 0x1E] = .ok (.addLVx 2, []) ∧
    decode [0xF0, 0x29] = .ok (.ldFVx 0, []) ∧ decode [0xF3, 0x55] = .ok (.ldMemVx 3, []) ∧
    decode [0xF3, 0x65] = .ok (.ldVxMem 3, []) := by decide

theorem test_decode_timers_and_display :
    decode [0xF2, 0x07] = .ok (.ldVxDt 2, []) ∧
    decode [0xF5, 0x0A] = .ok (.ldVxK 5, []) ∧ decode [0xF1, 0x15] = .ok (.ldDtVx 1, []) ∧
    decode [0xF1, 0x18] = .ok (.ldStVx 1, []) ∧ decode [0xD1, 0x25] = .ok (.drw 1 2 5, []) ∧
    decode [0xD1, 0x20] = .ok (.drw 1 2 0, []) := by decide

theorem test_decode_rejects :
    ([0x5AB1, 0x8128, 0x8129, 0x812A, 0x812B, 0x812C, 0x812D, 0x812F, 0x9AB1, 0xE59F, 0xE5A0, 0xE500, 0xF033, 0xF000,
      0xF075, 0xF085, 0xF0FF].all fun w => decodeWord w == .error .unrecognized) = true := by decide

theorem test_decode_needs_two_bytes : decode [] = .error .truncated ∧ decode [0x00] = .error .truncated := by decide

theorem test_encode_writes_the_high_byte_first : encodeBytes (.drw 1 2 5) = [0xD1, 0x25] := by decide

/-! ### Control flow: part 2.2 -/

/-- Rows 2 and 3. -/
theorem test_sys :
    after (code 0x0F 0xFF start) (fun t => t.pc == 0x202) = true ∧
    after (code 0x0A 0xBC { start with pc := 0xFFE }) (fun t => t.pc == 0x1000) = true := by decide

/-- Rows 4 and 5: one word past the CALL. -/
theorem test_ret :
    after (code 0x00 0xEE { start with pc := 0x21E, sp := 1, stack := start.stack.set 0 0x20A })
      (fun t => t.pc == 0x20C && t.sp == 0) = true ∧
    after (code 0x00 0xEE { start with pc := 0x300, sp := 16, stack := start.stack.set 15 0x21E })
      (fun t => t.pc == 0x220 && t.sp == 15) = true := by decide

/-- Row 6. -/
theorem test_ret_empty_stack :
    after (code 0x00 0xEE start) (fun t => haltedWith .emptyCallStackReturn 0x00EE 0x200 t && t.pc == 0x200) = true := by
  decide

/-- Rows 8 and 10: the target is not checked before the next fetch. -/
theorem test_jp :
    after (code 0x1A 0xBC start) (fun t => t.pc == 0xABC) = true ∧
    after (code 0x12 0x03 start) (fun t => t.pc == 0x203 && !t.isHalted) = true := by decide

/-- Row 13: the last free slot receives the address of the CALL. -/
theorem test_call :
    after (code 0x24 0x00 { start with pc := 0x20A, sp := 15 })
      (fun t => t.stack[15] == 0x20A && t.sp == 16 && t.pc == 0x400) = true := by decide

/-- Row 14. -/
theorem test_call_full_stack :
    after (code 0x24 0x00 { start with pc := 0x20A, sp := 16 })
      (fun t => haltedWith .stackOverflow 0x2400 0x20A t && t.pc == 0x20A && t.sp == 16) = true := by decide

/-- Rows 15 and 17: a skip does not wrap. -/
theorem test_se_imm :
    after (code 0x33 0x2A (setV [(3, 0x2A)] start)) (fun t => t.pc == 0x204) = true ∧
    after (code 0x30 0x00 { start with pc := 0xFFE }) (fun t => t.pc == 0x1002) = true := by decide

/-- Rows 18 and 19. -/
theorem test_sne_imm :
    after (code 0x43 0x2A (setV [(3, 0x2A)] start)) (fun t => t.pc == 0x202) = true ∧
    after (code 0x43 0x2A (setV [(3, 0x2B)] start)) (fun t => t.pc == 0x204) = true := by decide

/-- Rows 20 and 21. -/
theorem test_se_reg :
    after (code 0x51 0x20 (setV [(1, 7), (2, 7)] { start with pc := 0x300 })) (fun t => t.pc == 0x304) = true ∧
    after (code 0x51 0x20 (setV [(1, 7), (2, 8)] { start with pc := 0x300 })) (fun t => t.pc == 0x302) = true := by
  decide

/-- Rows 24 and 26. -/
theorem test_sne_reg :
    after (code 0x91 0x20 (setV [(1, 7), (2, 8)] { start with pc := 0x300 })) (fun t => t.pc == 0x304) = true ∧
    after (code 0x93 0x30 (setV [(3, 9)] start)) (fun t => t.pc == 0x202) = true := by decide

/-- Rows 28 and 29: the sum is not masked, and the register is `V0` whatever the address. -/
theorem test_jp_v0 :
    after (code 0xBF 0xFF (setV [(0, 0xFF)] start)) (fun t => t.pc == 0x10FE) = true ∧
    after (code 0xB2 0xF0 (setV [(0, 0x10), (2, 0x80)] start)) (fun t => t.pc == 0x300) = true := by decide

/-- Rows 30 and 32. -/
theorem test_skp :
    after (code 0xE5 0x9E (input 0x0080 0 (setV [(5, 0x07)] start))) (fun t => t.pc == 0x204) = true ∧
    after (code 0xE5 0x9E (input 0xFFFF 0 (setV [(5, 0x17)] start))) (fun t => t.pc == 0x202) = true := by decide

/-- Rows 33 and 35. -/
theorem test_sknp :
    after (code 0xE5 0xA1 (input 0x0080 0 (setV [(5, 0x07)] start))) (fun t => t.pc == 0x202) = true ∧
    after (code 0xE5 0xA1 (input 0xFFFF 0 (setV [(5, 0x17)] start))) (fun t => t.pc == 0x204) = true := by decide

/-! ### Register operations: part 2.3 -/

/-- Rows 1 and 2. -/
theorem test_ld_imm :
    after (code 0x6A 0x3C start) (fun t => t.reg 0xA == 0x3C && t.pc == 0x202) = true ∧
    after (code 0x6F 0x07 start) (fun t => t.reg 0xF == 0x07) = true := by decide

/-- Rows 3 and 5. -/
theorem test_add_imm :
    after (code 0x71 0x05 (setV [(1, 0xFE), (15, 0x55)] start)) (fun t => t.reg 1 == 0x03 && t.reg 15 == 0x55) = true ∧
    after (code 0x7F 0xFF (setV [(15, 0x02)] start)) (fun t => t.reg 15 == 0x01) = true := by decide

/-- Row 6. -/
theorem test_ld_reg :
    after (code 0x81 0x20 (setV [(2, 0x55)] start)) (fun t => t.reg 1 == 0x55 && t.reg 2 == 0x55) = true := by decide

/-- Rows 8 and 12. -/
theorem test_or :
    after (code 0x81 0x21 (setV [(1, 0xF0), (2, 0x0C), (15, 1)] start))
      (fun t => t.reg 1 == 0xFC && t.reg 15 == 1) = true ∧
    after (code 0x8F 0x11 (setV [(1, 0xF0), (15, 0x0F)] start)) (fun t => t.reg 15 == 0xFF) = true := by decide

/-- Row 9. -/
theorem test_and :
    after (code 0x81 0x22 (setV [(1, 0xFC), (2, 0x3F), (15, 1)] start))
      (fun t => t.reg 1 == 0x3C && t.reg 15 == 1) = true := by decide

/-- Rows 10 and 11. -/
theorem test_xor :
    after (code 0x81 0x23 (setV [(1, 0xFF), (2, 0x0F), (15, 1)] start))
      (fun t => t.reg 1 == 0xF0 && t.reg 15 == 1) = true ∧
    after (code 0x81 0x13 (setV [(1, 0xA5)] start)) (fun t => t.reg 1 == 0x00) = true := by decide

/-- Rows 14 and 18. -/
theorem test_add_reg :
    after (code 0x80 0x14 (setV [(0, 0xFF), (1, 0x01)] start)) (fun t => t.reg 0 == 0x00 && t.reg 15 == 1) = true ∧
    after (code 0x8F 0x14 (setV [(15, 0xF0), (1, 0x20)] start)) (fun t => t.reg 15 == 1) = true := by decide

/-- Rows 21 and 28. -/
theorem test_sub :
    after (code 0x80 0x15 (setV [(0, 0x03), (1, 0xFE), (15, 1)] start))
      (fun t => t.reg 0 == 0x05 && t.reg 15 == 0) = true ∧
    after (code 0x81 0xF5 (setV [(1, 0x10), (15, 1)] start)) (fun t => t.reg 1 == 0x0F && t.reg 15 == 1) = true := by
  decide

/-- Rows 33 and 34. -/
theorem test_shr :
    after (code 0x84 0x56 (setV [(4, 0x04), (5, 0xFF), (15, 1)] start))
      (fun t => t.reg 4 == 0x02 && t.reg 15 == 0 && t.reg 5 == 0xFF) = true ∧
    after (code 0x8F 0x06 (setV [(15, 0x03)] start)) (fun t => t.reg 15 == 1) = true := by decide

/-- Rows 36 and 38. -/
theorem test_subn :
    after (code 0x80 0x17 (setV [(0, 0x03), (1, 0xFE)] start)) (fun t => t.reg 0 == 0xFB && t.reg 15 == 1) = true ∧
    after (code 0x80 0x17 (setV [(0, 0x42), (1, 0x42)] start)) (fun t => t.reg 0 == 0x00 && t.reg 15 == 1) = true := by
  decide

/-- Rows 40 and 45. -/
theorem test_shl :
    after (code 0x84 0x0E (setV [(4, 0x81)] start)) (fun t => t.reg 4 == 0x02 && t.reg 15 == 1) = true ∧
    after (code 0x8F 0x0E (setV [(15, 0x7F)] start)) (fun t => t.reg 15 == 0) = true := by decide

/-- Row 46. -/
theorem test_unrecognized_word_halts :
    after (code 0x81 0x28 (setV [(1, 1), (2, 2)] start))
      (fun t => haltedWith .unrecognizedOpcode 0x8128 0x200 t && t.reg 1 == 1 && t.reg 2 == 2) = true := by decide

/-- Rows 48 and 51. -/
theorem test_rnd :
    after (code 0xC3 0x0F (input 0 0xB7 start)) (fun t => t.reg 3 == 0x07) = true ∧
    after (code 0xCF 0xF0 (input 0 0xB7 start)) (fun t => t.reg 15 == 0xB0) = true := by decide

/-! ### Index register and memory: part 2.4 -/

/-- Row 2. -/
theorem test_ld_l : after (code 0xAF 0xFF start) (fun t => t.l == 0x0FFF && t.pc == 0x202) = true := by decide

/-- Rows 4 and 5. -/
theorem test_add_l :
    after (code 0xF2 0x1E (setV [(2, 1)] { start with l := 0xFFFF })) (fun t => t.l == 0 && t.reg 15 == 0) = true ∧
    after (code 0xF2 0x1E (setV [(2, 1)] { start with l := 0x0FFF })) (fun t => t.l == 0x1000) = true := by decide

/-- Rows 8 and 10. -/
theorem test_ld_f :
    after (code 0xF0 0x29 (setV [(0, 0x0F)] start)) (fun t => t.l == 0x004B) = true ∧
    after (code 0xF0 0x29 (setV [(0, 0xFF)] start)) (fun t => t.l == 0x04FB) = true := by decide

/-- Row 11. -/
theorem test_dump :
    after (code 0xF3 0x55 (setV [(0, 1), (1, 2), (2, 3), (3, 4), (4, 9)] { start with l := 0x300 }))
      (fun t => [0x300, 0x301, 0x302, 0x303, 0x304].map t.mem.get == [1, 2, 3, 4, 0] && t.l == 0x300) = true := by decide

/-- Row 14. -/
theorem test_dump_out_of_range :
    after (code 0xFF 0x55 (setV [(0, 0x10)] { start with l := 0x0FF1 }))
      (fun t => haltedWith .outOfRangeAccess 0xFF55 0x0FF1 t && t.mem.get 0xFF1 == 0) = true := by decide

/-- Rows 18 and 19. -/
theorem test_load :
    after (code 0xF3 0x65 (setV [(4, 0x77)] (bytesAt 0x300 [1, 2, 3, 4, 5] { start with l := 0x300 })))
      (fun t => [0, 1, 2, 3, 4].map t.reg == [1, 2, 3, 4, 0x77] && t.l == 0x300) = true ∧
    after (code 0xF4 0x65 { start with l := 5 })
      (fun t => [0, 1, 2, 3, 4].map t.reg == [0x20, 0x60, 0x20, 0x20, 0x70]) = true := by decide

/-- Row 21. -/
theorem test_load_out_of_range :
    after (code 0xF1 0x65 (setV [(0, 0x11), (1, 0x22)] { start with l := 0x0FFF }))
      (fun t => haltedWith .outOfRangeAccess 0xF165 0x0FFF t && t.reg 0 == 0x11 && t.reg 1 == 0x22) = true := by decide

/-! ### Timers and key wait: part 2.5 -/

/-- Row 1: the copy is taken before the tick. -/
theorem test_ld_vx_dt : after (code 0xF2 0x07 { start with dt := 2 }) (fun t => t.reg 2 == 2 && t.dt == 1) = true := by
  decide

/-- Row 4: the arming frame's key is not used. -/
theorem test_ld_vx_k :
    after (code 0xF5 0x0A (input 0x0008 0 start))
      (fun t => decide (t.runState = .waitingForKey 5) && t.pc == 0x202 && t.reg 5 == 0) = true := by decide

/-- Rows 5 and 7. -/
theorem test_ld_dt :
    after (code 0xF1 0x15 (setV [(1, 3)] start)) (fun t => t.dt == 2) = true ∧
    after (code 0xF1 0x15 (setV [(1, 1)] start)) (fun t => t.dt == 0) = true := by decide

/-- Rows 9 and 10. -/
theorem test_ld_st :
    after (code 0xF1 0x18 (setV [(1, 2)] start)) (fun t => t.st == 1 && t.out.beep) = true ∧
    after (code 0xF1 0x18 { start with st := 5 }) (fun t => t.st == 0 && !t.out.beep) = true := by decide

/-- Rows 11 and 12. -/
theorem test_timers_rest_at_zero :
    after { start with dt := 1, st := 1 } (fun t => t.dt == 0 && t.st == 0 && t.out.beep) = true ∧
    after start (fun t => t.dt == 0 && t.st == 0 && !t.out.beep) = true := by decide

/-- A wait of register 5 at 0x202, where ADD V0,01 stands. -/
def waiting : State := code 0x70 0x01 { start with pc := 0x202, runState := .waitingForKey 5 }

/-- Row 15. -/
theorem test_wait_without_a_key :
    after { waiting with dt := 3, st := 1 }
      (fun t => decide (t.runState = .waitingForKey 5) && t.pc == 0x202 && t.reg 0 == 0 && t.dt == 2 && t.out.beep) =
      true := by decide

/-- Row 17. -/
theorem test_wait_resolves_with_the_lowest_key :
    after (input 0x8001 0 (setV [(5, 9)] waiting))
      (fun t => decide (t.runState = .normal) && t.reg 5 == 0 && t.reg 0 == 1 && t.pc == 0x204) = true := by decide

/-- The sentence after row 18. -/
theorem test_halted_frame_is_quiet :
    after { start with runState := .halted, st := 5, dt := 5 } (fun t => t.st == 5 && t.dt == 5 && !t.out.beep) = true :=
  by decide

/-! ### Display: part 2.6 -/

/-- Row 1. -/
theorem test_cls :
    after (code 0x00 0xE0 (setV [(15, 1)] (setPixels [(0, 0), (5, 5), (63, 31)] start)))
      (fun t => pixelsAre [] t && t.reg 15 == 1 && t.out.displayClear && t.out.transitions == []) = true := by decide

/-- Row 5. -/
theorem test_drw_collision :
    after (code 0xD1 0x25 (setPixels [(2, 0), (7, 7)] { start with l := 5 }))
      (fun t => pixelsAre [(1, 1), (2, 1), (2, 2), (2, 3), (1, 4), (2, 4), (3, 4), (7, 7)] t && t.reg 15 == 1 &&
        t.out.transitions == reported .erased [(2, 0)] ++
          reported .drawn [(1, 1), (2, 1), (2, 2), (2, 3), (1, 4), (2, 4), (3, 4)]) = true := by decide

/-- Row 10: the columns wrap, the rows do not. -/
theorem test_drw_wraps_in_x :
    after (code 0xD0 0x11 (bytesAt 0x300 [0xC0] (setV [(0, 0xFF), (1, 0xFF)] { start with l := 0x300 })))
      (fun t => pixelsAre [(63, 31), (0, 31)] t && t.reg 15 == 0 &&
        t.out.transitions == reported .drawn [(63, 31), (0, 31)]) = true := by decide

/-- Row 12. -/
theorem test_drw_clips_in_y :
    after (code 0xD0 0x13 (bytesAt 0x300 [0x80, 0x40, 0x20]
        (setPixels [(2, 0)] (setV [(1, 0x1E), (15, 1)] { start with l := 0x300 }))))
      (fun t => pixelsAre [(0, 30), (1, 31), (2, 0)] t && t.reg 15 == 0) = true := by decide

/-- Rows 13 and 16. -/
theorem test_drw_span :
    after (code 0xD0 0x10 (setV [(0, 5), (1, 5), (15, 1)] { start with l := 0xFFFF }))
      (fun t => t.reg 15 == 0 && !t.isHalted && pixelsAre [] t) = true ∧
    after (code 0xD0 0x12 (setV [(1, 0x1F), (15, 1)] { start with l := 0x0FFF }))
      (fun t => haltedWith .outOfRangeAccess 0xD012 0x0FFF t && t.reg 15 == 1) = true := by decide

/-- Row 17: the old `VF` is the column. -/
theorem test_drw_of_vf :
    after (code 0xDF 0x01 (bytesAt 0x300 [0x80] (setV [(15, 8)] { start with l := 0x300 })))
      (fun t => pixelsAre [(8, 0)] t && t.reg 15 == 0) = true := by decide

/-! ### Fetch faults and reset: part 2.7 -/

/-- Rows 1 and 3. -/
theorem test_fetch_at_the_top :
    after (code 0x6A 0x01 { start with pc := 0xFFE }) (fun t => t.reg 0xA == 1 && t.pc == 0x1000) = true ∧
    after { start with pc := 0x1000 } (haltedWith .outOfRangeAccess 0 0x1000) = true := by decide

/-- Rows 2, 5 and 7: the range is tested before the alignment, and no timer ticks. -/
theorem test_fetch_faults :
    after { start with pc := 0xFFF } (haltedWith .outOfRangeAccess 0 0xFFF) = true ∧
    after { start with pc := 0x203, dt := 5 } (fun t => haltedWith .misalignedFetch 0 0x203 t && t.dt == 5) = true := by
  decide

/-- Row 5 of the reset vectors. -/
theorem test_reset_with_one_byte :
    (match State.resetWith [0xA2] with
      | .next s => s.mem.get 0x200 == 0xA2 && s.mem.get 0x201 == 0 && after s (fun t => t.l == 0x200)
      | .fault _ => false
      | .refused _ => false) = true := by decide

/-! ### Witnesses: the hypotheses of every statement that has some can be met -/

/-- A canonical memory, the top word of memory as the next instruction, some inputs. -/
def atTop : State := code 0x6A 0x01 { start with pc := 0xFFE }

/-- A halted state. -/
def stopped : State :=
  { start with runState := .halted, haltCause := .misalignedFetch, haltAddr := 0x203, pc := 0x203, dt := 3 }

theorem witness_O2 : (Instr.drw 15 15 15).wf = true ∧ (Instr.sys 0x0EF).wf = true := by decide
theorem witness_O3 : decodeWord 0xDFFF = .ok (.drw 15 15 15) := by decide
theorem witness_O5 :
    decodeWord 0x00E1 = .ok (.sys 0x0E1) ∧ (Instr.sys 0xFFF).row.fits 0x00E1 = true ∧
      (Instr.drw 0 0 0).row.fits 0xDFFF = true := by decide
theorem witness_O6 :
    atTop.runState = .normal ∧ atTop.pc.toNat < 0xFFF ∧ atTop.pc.toNat % 2 = 0 ∧
      decode [atTop.mem.get atTop.pc.toNat, atTop.mem.get (atTop.pc.toNat + 1)] = .ok (.ldImm 0xA 1, []) := by decide
theorem witness_O7_running : { start with dt := 0xFF, st := 1 }.running := by unfold State.running; decide
theorem witness_O7_halted : ¬ stopped.running := by unfold State.running; decide
theorem witness_O8 : stopped.mem.wf = true ∧ decodeTableWord 16 0xD125 = some (.drw 1 2 5) := by decide
theorem witness_O9_range :
    { start with pc := 0xFFF }.runState = .normal ∧ 0xFFF ≤ { start with pc := 0xFFF }.pc.toNat := by decide
theorem witness_O9_odd :
    { start with pc := 0xFFD }.runState = .normal ∧ { start with pc := 0xFFD }.pc.toNat < 0xFFF ∧
      { start with pc := 0xFFD }.pc.toNat % 2 = 1 := by decide
theorem witness_O10 :
    (code 0xF0 0x33 start).runState = .normal ∧ (code 0xF0 0x33 start).pc.toNat < 0xFFF ∧
      (code 0xF0 0x33 start).pc.toNat % 2 = 0 ∧
      (0xF033 : Word) = wordOfBytes ((code 0xF0 0x33 start).mem.get (code 0xF0 0x33 start).pc.toNat)
        ((code 0xF0 0x33 start).mem.get ((code 0xF0 0x33 start).pc.toNat + 1)) ∧
      decodeWord 0xF033 = .error .unrecognized := by decide
theorem witness_O11_O12 : stopped.runState = .halted := by decide
theorem witness_O13 : waiting.runState = .waitingForKey 5 ∧ waiting.currentInput.keys = 0 := by decide
theorem witness_O14 :
    (input 0x8000 0 waiting).runState = .waitingForKey 5 ∧
      (input 0x8000 0 waiting).currentInput.keys.getLsbD (15 : Key).val = true ∧
      ∀ j : Key, j < 15 → (input 0x8000 0 waiting).currentInput.keys.getLsbD j.val = false := by decide
theorem witness_O14_key_zero :
    (input 0x8001 0 waiting).currentInput.keys.getLsbD (0 : Key).val = true ∧
      ∀ j : Key, j < 0 → (input 0x8001 0 waiting).currentInput.keys.getLsbD j.val = false := by decide
theorem witness_O15 :
    { waiting with inputs := [⟨0, 1⟩, ⟨0, 2⟩, ⟨8, 3⟩] }.runState = .waitingForKey 5 ∧
      { waiting with inputs := [⟨0, 1⟩, ⟨0, 2⟩, ⟨8, 3⟩] }.inputs = [⟨0, 1⟩, ⟨0, 2⟩] ++ [⟨8, 3⟩] ∧
      ∀ i ∈ ([⟨0, 1⟩, ⟨0, 2⟩] : List FrameInput), i.keys = 0 := by decide

/-- A frame that runs on and loads no timer; the premises of O16 and O18, and of O19's first clause. -/
theorem witness_O16_O18_O19 :
    ∃ t, step { start with dt := 1, st := 1 } = .next t ∧
      (decide (t.runState ≠ .halted) &&
        decide (∀ x, State.executed { start with dt := 1, st := 1 } ≠ some (.ldDtVx x)) &&
        decide (∀ x, State.executed { start with dt := 1, st := 1 } ≠ some (.ldStVx x))) = true :=
  exists_of_after (by decide)
theorem witness_O17 :
    (code 0xF1 0x15 start).executed = some (.ldDtVx 1) ∧ (code 0xF1 0x18 start).executed = some (.ldStVx 1) := by decide
theorem witness_O18_cls : (code 0x00 0xE0 start).executed = some .cls := by decide
theorem witness_O18_drw :
    ∃ t, step (code 0xD0 0x05 start) = .next t ∧ decide (t.out.transitions ≠ []) = true := exists_of_after (by decide)
theorem witness_O18_O24_halted :
    ∃ t, step (code 0x00 0xEE start) = .next t ∧ decide (t.runState = .halted) = true := exists_of_after (by decide)
theorem witness_O19 : start.inputs = ⟨0, 0⟩ :: [] := by decide

/-- A state that meets the invariant and is not the reset state: one live entry, a wait, a byte in memory. -/
theorem witness_O21 : State.Inv { waiting with sp := 1, stack := waiting.stack.set 0 0xFFE } where
  memCanonical := by decide
  pcBound := by decide
  liveEntries := by decide
  keypadClear := fun _ => by decide
  recordClear := fun _ => by decide
  recordSet := fun h => absurd h (by decide)
theorem witness_O21_steps :
    ∃ t, step { waiting with sp := 1, stack := waiting.stack.set 0 0xFFE } = .next t ∧ true = true :=
  exists_of_after (p := fun _ => true) (by decide)

theorem witness_O23_running : start.running := by unfold State.running; decide
theorem witness_O23_raises :
    raises .ret start = some .emptyCallStackReturn ∧ raises (.call 0x300) { start with sp := 16 } = some .stackOverflow ∧
      raises (.ldMemVx 15) { start with l := 0xFF1 } = some .outOfRangeAccess ∧
      raises (.drw 0 0 1) { start with l := 0x1000 } = some .outOfRangeAccess := by decide
theorem witness_O23_raises_nothing :
    raises .ret { start with sp := 1 } = none ∧ raises (.ldMemVx 15) { start with l := 0xFF0 } = none ∧
      raises (.drw 0 0 0) { start with l := 0xFFFF } = none := by decide
theorem witness_O25_halted : ∃ t, step stopped = .next t ∧ decide (t.runState = .halted) = true :=
  exists_of_after (by decide)
theorem witness_O25_waits_on : ∃ t, step waiting = .next t ∧ decide (t.runState = .waitingForKey 5) = true :=
  exists_of_after (by decide)
theorem witness_O25_is_armed :
    ∃ t, step (code 0xF5 0x0A start) = .next t ∧ decide (t.runState = .waitingForKey 5) = true :=
  exists_of_after (by decide)
theorem witness_O25_halts_after_a_wait :
    ∃ t, step (input 1 0 { waiting with pc := 0xFFF }) = .next t ∧ decide (t.runState = .halted) = true :=
  exists_of_after (by decide)
theorem witness_O27_fits : (List.replicate 3584 (0xA2 : Byte)).length ≤ 3584 := List.length_replicate.le
theorem witness_O27_too_long : 3584 < (List.replicate 3585 (0xA2 : Byte)).length := by rw [List.length_replicate]; decide

/-- An instruction answers a next state: the premise of O28, O29 and O30. -/
theorem witness_O28_O29_O30 :
    ∃ t, exec (.drw 0 1 5) start = .next t ∧ decide (t.reg 15 = 0) = true := exists_of_execAfter (by decide)
theorem witness_O29_other_instructions :
    (∀ x, Instr.drw 0 1 5 ≠ .ldMemVx x) ∧ Instr.ret ≠ .cls ∧ (∀ x y n, Instr.ret ≠ .drw x y n) ∧
      (∀ nnn, Instr.drw 0 1 5 ≠ .call nnn) ∧ (∀ nnn, Instr.ret ≠ .ldL nnn) ∧ (∀ x, Instr.ret ≠ .ldDtVx x) := by
  refine ⟨?_, ?_, ?_, ?_, ?_, ?_⟩ <;> intros <;> intro h <;> cases h
theorem witness_O30_other_instructions :
    (∀ x kk, Instr.skp 1 ≠ .rnd x kk) ∧ (∀ x, Instr.rnd 1 2 ≠ .skp x) ∧ (∀ x, Instr.rnd 1 2 ≠ .sknp x) := by
  refine ⟨?_, ?_, ?_⟩ <;> intros <;> intro h <;> cases h
theorem witness_O32 :
    0 < { start with sp := 1 }.sp.val ∧ 0 < { start with sp := 16 }.sp.val ∧ start.sp.val = 0 := by decide
theorem witness_O34 : { start with sp := 15 }.sp.val < 16 ∧ { start with sp := 16 }.sp.val = 16 := by decide
theorem witness_O35 :
    { start with sp := 15 }.sp.val < 16 ∧
      ∃ t, exec (.call 0x300) { start with sp := 15 } = .next t ∧ decide (t.sp = 16) = true :=
  ⟨by decide, exists_of_execAfter (by decide)⟩
theorem witness_O35_same_stack (t : State) : SameStack t (t.setReg 0 1) := ⟨rfl, rfl⟩

/-- Key 15 held. -/
def key15 : State := { setV [(1, 15), (2, 14), (3, 16)] start with keypad := keypadOf 0x8000 }

theorem witness_O39_pressed : ∃ h : (key15.reg 1).toNat < 16, key15.keypad[(key15.reg 1).toNat] = true :=
  ⟨by decide, by decide⟩
theorem witness_O39_not_pressed : ∃ h : (key15.reg 2).toNat < 16, key15.keypad[(key15.reg 2).toNat] = false :=
  ⟨by decide, by decide⟩
theorem witness_O39_no_key : 16 ≤ (key15.reg 3).toNat := by decide
theorem witness_O43_O44_O45 : (14 : Reg) ≠ 15 := by decide
theorem witness_O49_O50 :
    { start with l := 0xFF0 }.mem.wf = true ∧ { start with l := 0xFF0 }.l.toNat + (15 : Reg).val + 1 ≤ 4096 := by decide
theorem witness_O51 :
    { start with l := 0xFF0 }.mem.wf = true ∧ { start with l := 0xFF0 }.l.toNat + (15 : Reg).val + 1 ≤ 4096 ∧
      ∃ t, exec (.ldMemVx 15) { start with l := 0xFF0 } = .next t ∧ decide (t.l = 0xFF0) = true :=
  ⟨by decide, by decide, exists_of_execAfter (by decide)⟩
theorem witness_O51_zeroed (t : State) : SameMemory t (t.setReg 0 0) ∧ SameIndex t (t.setReg 0 0) :=
  ⟨fun _ => rfl, rfl⟩
theorem witness_O52_transfer : { start with l := 0xFF1 }.l.toNat + (15 : Reg).val + 1 > 4096 := by decide
theorem witness_O52_draw :
    (1 : Count).val ≥ 1 ∧ { start with l := 0x1000 }.l.toNat + (1 : Count).val > 4096 := by decide
theorem witness_O54 :
    (code 0xF5 0x0A start).runState = .normal ∧ (code 0xF5 0x0A start).executed = some (.ldVxK 5) := by decide
theorem witness_O56_O57_no_rows : (0 : Count).val = 0 ∨ { start with l := 0xFFFF }.l.toNat + (0 : Count).val ≤ 4096 := by
  decide
theorem witness_O56_O57_fifteen_rows :
    (15 : Count).val = 0 ∨ { start with l := 0xFF1 }.l.toNat + (15 : Count).val ≤ 4096 := by decide
theorem witness_O58 :
    ((5 : Count).val = 0 ∨ start.l.toNat + (5 : Count).val ≤ 4096) ∧
      ∃ t, exec (.drw 0 1 5) start = .next t ∧ (decide (t.reg 0 = start.reg 0) && decide (t.reg 1 = start.reg 1)) = true :=
  ⟨by decide, exists_of_execAfter (by decide)⟩
theorem witness_O59 :
    setsPc (.seImm 1 0) = false ∧ skips (.seImm 1 0) start ∧ ¬ skips (.seImm 1 3) start ∧ ¬ skips .cls start ∧
      start.running ∧ ∃ t, exec (.seImm 1 0) start = .next t ∧ decide (t.runState ≠ .halted) = true := by
  refine ⟨rfl, ?_, ?_, not_false, ?_, exists_of_execAfter (by decide)⟩
  · show start.reg 1 = 0
    decide
  · show ¬ start.reg 1 = 3
    decide
  · unfold State.running
    decide
theorem witness_O60 :
    { start with pc := 0xFEE, l := 0xFF0 }.mem.wf = true ∧ { start with pc := 0xFEE, l := 0xFF0 }.pc.toNat % 2 = 0 ∧
      { start with pc := 0xFEE, l := 0xFF0 }.l = { start with pc := 0xFEE, l := 0xFF0 }.pc + 2 ∧
      { start with pc := 0xFEE, l := 0xFF0 }.pc.toNat + 2 + (15 : Reg).val < 4096 ∧ 1 ≤ (15 : Reg).val := by decide

end Sys2Proof.Tests
end

/-! SUPPORT. The effect of an instruction that raises nothing, as what it writes (`State.written`) and where it leaves
`pc` (`State.pcAfter`); `exec_cases` ties both to `exec`: every instruction either takes its exception or has this
effect. The rules about the whole machine are read off the two. -/

namespace Sys2Proof.Machine

/-! ### The effect of an instruction -/

/-- What an instruction that raises nothing writes, beside `pc`. -/
def State.written (s : State) : Instr → State
  | .cls => s.clearDisplay
  | .ret => { s with sp := ⟨s.sp.val - 1, by omega⟩ }
  | .call _ => { s with stack := s.stack.setIfInBounds s.sp.val s.pc, sp := Fin.ofNat 17 (s.sp.val + 1) }
  | .ldImm x kk => s.setReg x kk
  | .addImm x kk => s.setReg x (addResult (s.reg x) kk)
  | .ldReg x y => s.setReg x (s.reg y)
  | .orReg x y => s.setReg x (s.reg x ||| s.reg y)
  | .andReg x y => s.setReg x (s.reg x &&& s.reg y)
  | .xorReg x y => s.setReg x (s.reg x ^^^ s.reg y)
  | .addReg x y => s.setResultFlag x (addResult (s.reg x) (s.reg y)) (addCarry (s.reg x) (s.reg y))
  | .sub x y => s.setResultFlag x (subResult (s.reg x) (s.reg y)) (notBorrow (s.reg x) (s.reg y))
  | .shr x _ => s.setResultFlag x (shrResult (s.reg x)) (shrFlag (s.reg x))
  | .subn x y => s.setResultFlag x (subResult (s.reg y) (s.reg x)) (notBorrow (s.reg y) (s.reg x))
  | .shl x _ => s.setResultFlag x (shlResult (s.reg x)) (shlFlag (s.reg x))
  | .ldL nnn => s.setL (addrWord nnn)
  | .rnd x kk => s.setReg x (s.currentInput.rnd &&& kk)
  | .drw x y n => s.takeBlit (s.drawBlit x y n)
  | .ldVxDt x => s.setReg x s.dt
  | .ldVxK x => s.setRunState (.waitingForKey x)
  | .ldDtVx x => s.setDt (s.reg x)
  | .ldStVx x => s.setSt (s.reg x)
  | .addLVx x => s.setL (s.l + byteWord (s.reg x))
  | .ldFVx x => s.setL (glyphAddr (s.reg x))
  | .ldMemVx x => { s with mem := s.mem.putBytes s.l.toNat (s.regsTo x) }
  | .ldVxMem x => s.setRegs ((List.range (x.val + 1)).map fun i => s.mem.get (s.l.toNat + i))
  | .sys _ | .jp _ | .jpV0 _ | .seImm _ _ | .sneImm _ _ | .seReg _ _ | .sneReg _ _ | .skp _ | .sknp _ => s

/-- Whether an instruction skips, as the machine tests it; `skipTest_iff` is the tie to `skips`. -/
def State.skipTest (s : State) : Instr → Bool
  | .seImm x kk => s.reg x == kk
  | .sneImm x kk => s.reg x != kk
  | .seReg x y => s.reg x == s.reg y
  | .sneReg x y => s.reg x != s.reg y
  | .skp x => s.keyPressed (s.reg x)
  | .sknp x => !s.keyPressed (s.reg x)
  | _ => false

/-- Where an instruction that raises nothing leaves `pc` (R25, R128). -/
def State.pcAfter (s : State) : Instr → Word
  | .ret => s.stack[s.sp.val - 1] + 2#16
  | .jp nnn | .call nnn => addrWord nnn
  | .jpV0 nnn => addrWord nnn + byteWord (s.reg 0)
  | i => s.pc + if s.skipTest i then 4#16 else 2#16

/-- A call with a free entry pushes `pc` and jumps (R154). -/
theorem exec_call_eq_written {s : State} (nnn : Addr) (h : s.sp.val < 16) :
    exec (.call nnn) s = .next ((s.written (.call nnn)).setPc (s.pcAfter (.call nnn))) := by
  have hstack : s.stack.setIfInBounds s.sp.val s.pc = s.stack.set s.sp.val s.pc := by
    simp [Vector.setIfInBounds, Vector.set, Array.setIfInBounds, h]
  have hsp : Fin.ofNat 17 (s.sp.val + 1) = ⟨s.sp.val + 1, by omega⟩ := Fin.ext (Nat.mod_eq_of_lt (by omega))
  rw [exec_call_of_free nnn h, State.written, hstack, hsp]
  rfl

/-- An instruction with no cause to raise has its effect. -/
theorem exec_of_raises_none {i : Instr} {s : State} (h : raises i s = none) :
    exec i s = .next ((s.written i).setPc (s.pcAfter i)) := by
  cases i with
  | ret =>
    have hsp : s.sp.val ≠ 0 := by simpa [raises] using h
    exact exec_ret_of_live (Nat.pos_of_ne_zero hsp)
  | call nnn =>
    have hsp : s.sp.val ≠ 16 := by simpa [raises] using h
    exact exec_call_eq_written nnn (by omega)
  | ldMemVx x =>
    have hfit : s.l.toNat + x.val + 1 ≤ 4096 := by simpa [raises] using h
    exact exec_ldMemVx_of_fits x hfit
  | ldVxMem x =>
    have hfit : s.l.toNat + x.val + 1 ≤ 4096 := by simpa [raises] using h
    rw [exec_ldVxMem_of_fits x hfit, State.advance, State.setRegs_pc]
    rfl
  | drw x y n =>
    have hfit : n.val = 0 ∨ s.l.toNat + n.val ≤ 4096 := by
      have : 1 ≤ n.val → s.l.toNat + n.val ≤ 4096 := by simpa [raises] using h
      omega
    exact exec_drw_of_fits x y n hfit
  | _ => rfl

/-- An instruction with a cause to raise takes the exception, with its own word and the address of its kind (R237). -/
theorem exec_of_raises {i : Instr} {s : State} {c : HaltCause} (h : raises i s = some c) :
    exec i s = .next (s.raise c (encode i) (if c = .outOfRangeAccess then s.l else s.pc)) := by
  cases i with
  | ret =>
    obtain ⟨hsp, rfl⟩ : s.sp.val = 0 ∧ .emptyCallStackReturn = c := by simpa [raises] using h
    exact exec_ret_of_empty hsp
  | call nnn =>
    obtain ⟨hsp, rfl⟩ : s.sp.val = 16 ∧ .stackOverflow = c := by simpa [raises] using h
    exact exec_call_of_full nnn hsp
  | ldMemVx x =>
    obtain ⟨hspan, rfl⟩ : 4096 < s.l.toNat + x.val + 1 ∧ .outOfRangeAccess = c := by simpa [raises] using h
    exact exec_ldMemVx_of_leaves x hspan
  | ldVxMem x =>
    obtain ⟨hspan, rfl⟩ : 4096 < s.l.toNat + x.val + 1 ∧ .outOfRangeAccess = c := by simpa [raises] using h
    exact exec_ldVxMem_of_leaves x hspan
  | drw x y n =>
    obtain ⟨⟨hn, hspan⟩, rfl⟩ : (1 ≤ n.val ∧ 4096 < s.l.toNat + n.val) ∧ .outOfRangeAccess = c := by
      simpa [raises] using h
    exact exec_drw_of_leaves x y n hn hspan
  | _ => cases h

/-- What an instruction can do: take its exception, or have its effect (R129, R237). -/
theorem exec_cases {i : Instr} {s t : State} (h : exec i s = .next t) :
    (∃ c w a, raises i s = some c ∧ t = s.raise c w a) ∨
    (raises i s = none ∧ t = (s.written i).setPc (s.pcAfter i)) := by
  cases hr : raises i s with
  | none =>
    rw [exec_of_raises_none hr] at h
    exact .inr ⟨rfl, (Host.Outcome.next.inj h).symm⟩
  | some c =>
    rw [exec_of_raises hr] at h
    exact .inl ⟨c, _, _, rfl, (Host.Outcome.next.inj h).symm⟩

/-! ### What the effect leaves unchanged, store by store

Most cases hold by unfolding. The bulk load is cited from the laws of `setRegs`: there the unifier would compare the
register files first, which is slow. -/

section
variable {i : Instr} (s : State)

theorem State.written_reg {r : Reg} (h : r ∉ destRegs i) : (s.written i).reg r = s.reg r := by
  cases i with
  | ldVxMem x =>
    have hx : x.val < r.val := by simpa [destRegs] using h
    rw [State.written, State.reg_setRegs]
    exact List.getD_eq_default _ _ (by simpa using hx)
  | ldImm x | addImm x | ldReg x | orReg x | andReg x | xorReg x | rnd x | ldVxDt x =>
    exact (State.reg_setReg s x r _).trans (if_neg (by simpa [destRegs] using h))
  | addReg x | sub x | shr x | subn x | shl x =>
    obtain ⟨hx, hf⟩ : r ≠ x ∧ r ≠ flagReg := by simpa [destRegs] using h
    rw [State.written, State.reg_setResultFlag, if_neg hf, if_neg hx]
  | drw x y n =>
    exact (State.reg_takeBlit s _ r).trans (if_neg (by simpa [destRegs] using h))
  | _ => rfl

theorem State.written_mem (h : ∀ x, i ≠ .ldMemVx x) : (s.written i).mem = s.mem := by
  cases i with
  | ldMemVx x => exact absurd rfl (h x)
  | ldVxMem x => exact State.setRegs_mem s _
  | _ => rfl

theorem State.written_disp_out (hcls : i ≠ .cls) (hdrw : ∀ x y n, i ≠ .drw x y n) :
    (s.written i).disp = s.disp ∧ (s.written i).out = s.out := by
  cases i with
  | cls => exact absurd rfl hcls
  | drw x y n => exact absurd rfl (hdrw x y n)
  | ldVxMem x => exact ⟨State.setRegs_disp s _, State.setRegs_out s _⟩
  | _ => exact ⟨rfl, rfl⟩

theorem State.written_stack (hret : i ≠ .ret) (hcall : ∀ nnn, i ≠ .call nnn) : SameStack s (s.written i) := by
  cases i with
  | ret => exact absurd rfl hret
  | call nnn => exact absurd rfl (hcall nnn)
  | ldVxMem x => exact ⟨State.setRegs_sp s _, State.setRegs_stack s _⟩
  | _ => exact ⟨rfl, rfl⟩

theorem State.written_l (hld : ∀ nnn, i ≠ .ldL nnn) (hadd : ∀ x, i ≠ .addLVx x) (hglyph : ∀ x, i ≠ .ldFVx x) :
    (s.written i).l = s.l := by
  cases i with
  | ldL nnn => exact absurd rfl (hld nnn)
  | addLVx x => exact absurd rfl (hadd x)
  | ldFVx x => exact absurd rfl (hglyph x)
  | ldVxMem x => exact State.setRegs_l s _
  | _ => rfl

theorem State.written_dt (h : ∀ x, i ≠ .ldDtVx x) : (s.written i).dt = s.dt := by
  cases i with
  | ldDtVx x => exact absurd rfl (h x)
  | ldVxMem x => exact State.setRegs_dt s _
  | _ => rfl

theorem State.written_st (h : ∀ x, i ≠ .ldStVx x) : (s.written i).st = s.st := by
  cases i with
  | ldStVx x => exact absurd rfl (h x)
  | ldVxMem x => exact State.setRegs_st s _
  | _ => rfl

theorem State.written_runState (h : ∀ x, i ≠ .ldVxK x) : (s.written i).runState = s.runState := by
  cases i with
  | ldVxK x => exact absurd rfl (h x)
  | ldVxMem x => exact State.setRegs_runState s _
  | _ => rfl

theorem State.written_inputs : SameInputs s (s.written i) := by
  cases i with
  | ldVxMem x => exact ⟨State.setRegs_keypad s _, State.setRegs_inputs s _, State.setRegs_frame s _⟩
  | _ => exact ⟨rfl, rfl, rfl⟩

end

/-- The machine's test of a skip is the condition of the rules; a key index of 16 or more names no key (R160, R161). -/
theorem State.skipTest_iff (s : State) (i : Instr) : s.skipTest i = true ↔ skips i s := by
  have key : ∀ b : Byte, s.keyPressed b = true ↔ ∃ h : b.toNat < 16, s.keypad[b.toNat] = true := by
    intro b
    by_cases h : b.toNat < 16
    · simp [State.keyPressed_of_lt h, h]
    · simp [State.keyPressed_of_ge (Nat.le_of_not_lt h), h]
  cases i with
  | skp x => exact key (s.reg x)
  | sknp x =>
    rw [skips, ← key, State.skipTest, Bool.not_eq_true', Bool.not_eq_true]
  | _ => simp [State.skipTest, skips]

theorem State.pcAfter_of_setsPc {s : State} {i : Instr} (h : setsPc i = false) :
    s.pcAfter i = s.pc + if s.skipTest i then 4#16 else 2#16 := by
  cases i with
  | ret | jp | call | jpV0 => cases h
  | _ => rfl
/-! ### The frame around the instruction -/

theorem State.atPhase3_inputs_frame (s : State) :
    s.atPhase3.inputs = s.inputs ∧ s.atPhase3.frame = s.frame := by
  rcases State.resolveKeyWait_cases s.openFrame with ⟨h, -⟩ | ⟨t, k, -, -, h⟩ <;> simp [State.atPhase3, h]

/-- Closing a frame uses up one input, whatever the frame did (log entry 1). -/
theorem State.closeFrame_inputs_frame (s : State) :
    s.closeFrame.inputs = s.inputs.tail ∧ s.closeFrame.frame = s.frame + 1 := by
  cases h : s.runState <;> simp [State.closeFrame, h]

/-- The phases after the instruction do not touch the run-state. -/
@[simp] theorem State.closeFrame_runState (s : State) : s.closeFrame.runState = s.runState := by
  cases h : s.runState <;> simp [State.closeFrame, h]

/-- The keypad and the inputs still to come are written by no instruction (R36). -/
theorem exec_sameInputs {i : Instr} {s t : State} (h : exec i s = .next t) : SameInputs s t := by
  rcases exec_cases h with ⟨c, w, a, -, rfl⟩ | ⟨-, rfl⟩
  · exact ⟨rfl, rfl, rfl⟩
  · exact s.written_inputs

/-- A frame that fetches an instruction and decodes it executes that instruction (R133). -/
theorem State.executed_of_decoded {s : State} {w : Word} {i : Instr} (hr : s.running)
    (hn : s.atPhase3.runState = .normal) (hf : s.atPhase3.fetch = .ok w) (hd : decodeWord w = .ok i) :
    s.executed = some i := by
  have hrun : ¬ (s.runState = .halted ∨ s.atPhase3.runState ≠ .normal) := not_or.2 ⟨hr, not_not.2 hn⟩
  simp only [State.executed, if_neg hrun, hf, hd]

/-- What the run-state does in a frame, and what the frame executes: it stays halted, it waits on, it halts at the fetch
or at the decode, or it is left by the one instruction that the frame runs. -/
theorem step_runState_cases {s t : State} (h : step s = .next t) :
    (s.runState = .halted ∧ t.runState = .halted) ∨
    (∃ r, s.runState = .waitingForKey r ∧ t.runState = .waitingForKey r ∧ s.executed = none) ∨
    (s.running ∧ s.atPhase3.runState = .normal ∧ t.runState = .halted ∧ s.executed = none) ∨
    (s.running ∧ s.atPhase3.runState = .normal ∧
      ∃ i u, s.executed = some i ∧ exec i s.atPhase3 = .next u ∧ t.runState = u.runState) := by
  rcases step_cases h with ⟨hh, rfl⟩ | ⟨-, ⟨r, hr⟩, hp, rfl⟩ | ⟨hr, hn, c, hf, rfl⟩ | ⟨hr, hn, w, e, hf, hd, rfl⟩ |
    ⟨hr, hn, w, i, u, hf, hd, he, rfl⟩
  · exact .inl ⟨hh, by simp [hh]⟩
  · exact .inr (.inl ⟨r, hr, by simp [hr], by simp [State.executed, hp, hr]⟩)
  · exact .inr (.inr (.inl ⟨hr, hn, by simp, by simp [State.executed, hf]⟩))
  · exact .inr (.inr (.inl ⟨hr, hn, by simp, by simp [State.executed, hf, hd]⟩))
  · exact .inr (.inr (.inr ⟨hr, hn, i, u, State.executed_of_decoded hr hn hf hd, he, by simp⟩))

/-- What the run-state is after an instruction run in `Normal`: halted where it raises, waiting after LD Vx,K, and
`Normal` after every other (R30). -/
theorem exec_runState_cases {i : Instr} {s t : State} (hn : s.runState = .normal) (h : exec i s = .next t) :
    (t.runState = .halted ∧ ∃ c, raises i s = some c) ∨
    (∃ x, i = .ldVxK x ∧ t.runState = .waitingForKey x) ∨ t.runState = .normal := by
  rcases exec_cases h with ⟨c, w, a, hc, rfl⟩ | ⟨-, rfl⟩
  · exact .inl ⟨rfl, c, hc⟩
  · by_cases hk : ∃ x, i = .ldVxK x
    · obtain ⟨x, rfl⟩ := hk
      exact .inr (.inl ⟨x, rfl, rfl⟩)
    · refine .inr (.inr ?_)
      rw [State.setPc_runState, State.written_runState s (not_exists.1 hk), hn]

end Sys2Proof.Machine

namespace Sys2Proof.Proofs

open Sys2Proof Sys2Proof.Machine

/-! ### The obligations of 10_state.md -/

/-- Settles O28: a raise writes no register, and the effect writes those of the instruction's row only. -/
theorem onlyTheRegistersOfTheTableAreWritten : Obligations.OnlyTheRegistersOfTheTableAreWritten := by
  intro i s t h r hr
  rcases exec_cases h with ⟨c, w, a, -, rfl⟩ | ⟨-, rfl⟩
  · exact State.reg_raise s c w a r
  · rw [State.reg_setPc, State.written_reg s hr]

/-- Settles O29: a raise writes none of the stores, and the effect writes each in the named instructions only. -/
theorem eachStoreIsWrittenOnlyByItsInstructions : Obligations.EachStoreIsWrittenOnlyByItsInstructions := by
  intro i s t h
  have hin := exec_sameInputs h
  rcases exec_cases h with ⟨c, w, a, -, rfl⟩ | ⟨-, rfl⟩
  · exact ⟨fun _ _ => rfl, fun _ _ => ⟨fun _ _ => rfl, rfl⟩, fun _ _ => ⟨rfl, rfl⟩, fun _ _ _ => rfl, fun _ => rfl,
      fun _ => rfl, hin⟩
  · refine ⟨fun hmem a => ?_, fun hcls hdrw => ?_, s.written_stack, s.written_l, s.written_dt, s.written_st, hin⟩
    · rw [State.setPc_mem, State.written_mem s hmem]
    · obtain ⟨hdisp, hout⟩ := State.written_disp_out s hcls hdrw
      exact ⟨fun r c => by rw [State.setPc_disp, hdisp], hout⟩

/-- Settles O59: an instruction that leaves the machine running has not raised, so it leaves `pc` where its skip test
says. -/
theorem everyOtherInstructionMovesPcOnByOneWordOrTwo : Obligations.EveryOtherInstructionMovesPcOnByOneWordOrTwo := by
  intro i s t _ h ht hpc
  rcases exec_cases h with ⟨c, w, a, -, rfl⟩ | ⟨-, rfl⟩
  · exact absurd rfl ht
  · rw [State.setPc_pc, State.pcAfter_of_setsPc hpc, ← State.skipTest_iff]
    exact ⟨fun hs => by rw [if_pos hs]; rfl, fun hs => by rw [if_neg hs]; rfl⟩

/-- Settles O19: phase 3 finds the inputs of the frame, no instruction writes them, and closing the frame uses one. -/
theorem everyFrameUsesOneInput : Obligations.EveryFrameUsesOneInput := by
  refine ⟨fun s t h => ?_, fun s i rest => State.currentInput_cons⟩
  obtain ⟨hi, hf⟩ := s.atPhase3_inputs_frame
  rcases step_cases h with ⟨-, rfl⟩ | ⟨-, -, -, rfl⟩ | ⟨-, -, c, -, rfl⟩ | ⟨-, -, w, e, -, -, rfl⟩ |
    ⟨-, -, w, i, u, -, -, he, rfl⟩
  · exact ⟨rfl, rfl⟩
  · simp [State.closeFrame_inputs_frame]
  · simp [State.closeFrame_inputs_frame, hi, hf]
  · simp [State.closeFrame_inputs_frame, hi, hf]
  · obtain ⟨-, hui, huf⟩ := exec_sameInputs he
    simp [State.closeFrame_inputs_frame, hui, huf, hi, hf]

/-- Settles O25: by what a frame can do with the run-state, and what the instruction it runs can. -/
theorem theRunStateChangesOnlyAsTheRulesSay : Obligations.TheRunStateChangesOnlyAsTheRulesSay := by
  intro s t h
  rcases step_runState_cases h with ⟨hs, ht⟩ | ⟨r, hs, ht, he⟩ | ⟨hr, hn, ht, he⟩ | ⟨hr, hn, i, u, he, hx, ht⟩
  · exact ⟨fun _ => ht, fun r hw => by simp [ht] at hw, fun _ hr => absurd hs hr⟩
  · exact ⟨fun hh => by simp [hs] at hh, fun r' hw => .inl ⟨by rw [hs, ← ht, hw], he⟩, fun hh => by simp [ht] at hh⟩
  · exact ⟨fun hh => absurd hh hr, fun r hw => by simp [ht] at hw, fun _ _ => ⟨hn, .inl he⟩⟩
  · refine ⟨fun hh => absurd hh hr, ?_⟩
    rcases exec_runState_cases hn hx with ⟨hu, c, hc⟩ | ⟨x, rfl, hu⟩ | hu <;> rw [ht, hu]
    · exact ⟨fun r hw => by simp at hw, fun _ _ => ⟨hn, .inr ⟨i, c, he, hc⟩⟩⟩
    · exact ⟨fun r hw => .inr (by rw [he, RunState.waitingForKey.inj hw]), fun hh => by simp at hh⟩
    · exact ⟨fun r hw => by simp at hw, fun hh => by simp at hh⟩

/-- Settles O22: memory lists nothing, the stack is empty, and the machine is in `Normal` with an empty record. -/
theorem resetMeetsTheInvariant : Obligations.ResetMeetsTheInvariant where
  memCanonical := rfl
  pcBound := by decide
  liveEntries := fun j hj => absurd hj (Nat.not_lt_zero j.val)
  keypadClear := fun _ => rfl
  recordClear := fun _ => ⟨rfl, rfl, rfl⟩
  recordSet := fun h => by cases h

/-- Settles O26: the font is the first 80 bytes of the background that the empty memory reads as. -/
theorem resetLeavesTheValuesOfTheResetTable : Obligations.ResetLeavesTheValuesOfTheResetTable := by
  have hreg : ∀ r : Reg, State.reset.reg r = 0 := fun r => Vector.getElem_replicate r.isLt
  have hzero : ∀ a : Nat, 80 ≤ a → a < 4096 → State.reset.mem.get a = 0 := fun a ha _ =>
    List.getD_eq_default fontTable 0#8 ha
  have hfont : (List.range 80).map State.reset.mem.get = fontTable := by decide
  exact ⟨hreg, rfl, rfl, rfl, rfl, rfl, rfl, rfl, rfl, rfl, rfl, Display.pixel_clear,
    fun k => noKeys_getElem k.val k.isLt, hfont, hzero⟩

end Sys2Proof.Proofs

/-! SUPPORT. What a store, a frame and an instruction do to the parts that the invariant of the states between two
frames speaks of: memory and what is fetched from it, the phases around the instruction, the instruction itself. -/

namespace Sys2Proof.Machine

/-! ### A word stored where it is fetched -/

/-- Bytes written at `pc` are what the fetch reads: the first two, the first as the high byte (R66, R75). -/
theorem State.fetch_of_putBytes {s : State} {m : Memory} {ws : List Byte} (hm : m.wf = true)
    (hmem : s.mem = m.putBytes s.pc.toNat ws) (heven : s.pc.toNat % 2 = 0) (htwo : 2 ≤ ws.length)
    (hfit : s.pc.toNat + ws.length ≤ 4096) :
    s.fetch = .ok (wordOfBytes (ws.getD 0 0#8) (ws.getD 1 0#8)) := by
  have hget : ∀ k : Nat, k < 2 → s.mem.get (s.pc.toNat + k) = ws.getD k 0#8 := by
    intro k hk
    have hlt : k < ws.length := by omega
    rw [hmem, Memory.get_putBytes hm hfit, if_pos (Nat.le_add_right _ k), Nat.add_sub_cancel_left,
      List.getD_eq_getElem _ _ hlt, List.getD_eq_getElem _ _ hlt]
  have hpc : s.pc.toNat < 0xFFF := by omega
  rw [State.fetch_ok hpc heven, hget 1 (by decide), ← hget 0 (by decide), Nat.add_zero]

theorem fetchable_iff (pc : Word) : fetchable pc = true ↔ pc.toNat < 0xFFF ∧ pc.toNat % 2 = 0 := by
  simp only [fetchable, Bool.and_eq_true, decide_eq_true_eq, beq_iff_eq, Nat.succ_le_iff]

/-- A placed word is what the state fetches, from its own `pc` or, where that is no place to fetch from, from the entry
point (log entry 35). -/
theorem State.fetch_placeWord {s : State} (h : s.mem.wf = true) (w : Word) : (s.placeWord w).fetch = .ok w := by
  have hpc : fetchable (s.placeWord w).pc = true := by
    simp only [State.placeWord]
    split
    · assumption
    · rfl
  obtain ⟨hlt, heven⟩ := (fetchable_iff _).1 hpc
  have hmem : (s.placeWord w).mem = s.mem.putBytes (s.placeWord w).pc.toNat [highByte w, lowByte w] := rfl
  have hfit : (s.placeWord w).pc.toNat + [highByte w, lowByte w].length ≤ 4096 := Nat.succ_le_succ hlt
  rw [State.fetch_of_putBytes h hmem heven (Nat.le_refl 2) hfit]
  exact congrArg Except.ok (wordOfBytes_highByte_lowByte w)

/-- The decoder of the opcode table's words is the decoder of the machine's words (R66, R94). -/
theorem decodeWord_of_decodeTableWord {nbits w : Nat} {i : Instr} (h : decodeTableWord nbits w = some i) :
    decodeWord (BitVec.ofNat 16 (w % 2 ^ nbits)) = .ok i := by
  simp only [decodeTableWord, decode, wordOfBytes_highByte_lowByte] at h
  cases hd : decodeWord (BitVec.ofNat 16 (w % 2 ^ nbits)) with
  | ok j => simpa [hd] using h
  | error e => simp [hd] at h

/-- A frame that starts in `Normal` at a word that decodes is that instruction, between opening and closing (R121). -/
theorem step_of_decoded {s : State} {w : Word} {i : Instr} (hn : s.runState = .normal) (hf : s.fetch = .ok w)
    (hd : decodeWord w = .ok i) : step s = closeOutcome (exec i s.openFrame) := by
  have hopen : s.openFrame.fetch = .ok w := by rw [State.fetch_congr s.openFrame_pc s.openFrame_mem, hf]
  have hrun : s.running := by simp [State.running, hn]
  rw [step_of_normal hrun (by simp [State.atPhase3_of_normal hn, hn]), State.atPhase3_of_normal hn, runInstruction, hopen]
  simp only [hd]

/-! ### The invariant inside a frame -/

/-- What holds inside a frame: the invariant of the states between two frames, but for the keypad, which holds the
frame's sample (R39). -/
def State.InvInFrame (s : State) : Prop := s.clearKeypad.Inv

/-- The invariant depends on memory, `pc`, the call stack, the halt record, whether the machine has halted, and, while it
has not, the keypad. -/
theorem State.Inv.congr {s t : State} (h : s.Inv) (hmem : t.mem = s.mem) (hpc : t.pc = s.pc) (hstack : SameStack s t)
    (hrec : SameHaltRecord s t) (hhalt : t.runState = .halted ↔ s.runState = .halted)
    (hkeys : t.running → t.keypad = noKeys) : t.Inv := by
  obtain ⟨hsp, hst⟩ := hstack
  obtain ⟨hcause, hword, haddr⟩ := hrec
  have hrun : t.running ↔ s.running := not_congr hhalt
  exact {
    memCanonical := hmem ▸ h.memCanonical
    pcBound := hpc ▸ h.pcBound
    liveEntries := by rw [hsp, hst]; exact h.liveEntries
    keypadClear := hkeys
    recordClear := by rw [hrun, hcause, hword, haddr]; exact h.recordClear
    recordSet := by rw [hhalt, hcause]; exact h.recordSet }

/-- Opening a frame writes the outputs and the keypad only (R121, R123). -/
theorem State.Inv.openFrame {s : State} (h : s.Inv) : s.openFrame.InvInFrame :=
  h.congr s.openFrame_mem s.openFrame_pc ⟨s.openFrame_sp, s.openFrame_stack⟩
    ⟨s.openFrame_haltCause, s.openFrame_haltWord, s.openFrame_haltAddr⟩
    (by rw [State.clearKeypad_runState, State.openFrame_runState]) fun _ => rfl

/-- Resolving a key wait writes one register and leaves the wait (R124). -/
theorem State.InvInFrame.resolveKeyWait {s : State} (h : s.InvInFrame) : s.resolveKeyWait.InvInFrame := by
  rcases State.resolveKeyWait_cases s with ⟨heq, -⟩ | ⟨r, k, hw, -, heq⟩ <;> rw [heq]
  · exact h
  · have hhalt : RunState.normal = .halted ↔ s.runState = .halted := by simp [hw]
    exact h.congr rfl rfl ⟨rfl, rfl⟩ ⟨rfl, rfl, rfl⟩ hhalt fun _ => rfl

theorem State.closeFrame_of_halted {s : State} (h : s.runState = .halted) : s.closeFrame = s.nextInput := by
  rw [State.closeFrame, h]

theorem State.closeFrame_of_running {s : State} (h : s.running) :
    s.closeFrame = s.tickTimers.clearKeypad.nextInput := by
  unfold State.closeFrame
  cases hr : s.runState with
  | halted => exact absurd hr h
  | normal | waitingForKey => rfl

/-- Closing a frame clears the keypad unless the frame halted (R129, R131), and leaves the rest. -/
theorem State.InvInFrame.closeFrame {s : State} (h : s.InvInFrame) : s.closeFrame.Inv := by
  by_cases hr : s.runState = .halted
  · rw [State.closeFrame_of_halted hr]
    exact h.congr rfl rfl ⟨rfl, rfl⟩ ⟨rfl, rfl, rfl⟩ Iff.rfl fun hrun => absurd hr hrun
  · rw [State.closeFrame_of_running hr]
    exact h.congr rfl rfl ⟨rfl, rfl⟩ ⟨rfl, rfl, rfl⟩ Iff.rfl fun _ => rfl

/-- Taking an exception of a named cause writes the run-state and the record only (R238). -/
theorem State.InvInFrame.raise {s : State} (h : s.InvInFrame) {c : HaltCause} (hc : c ≠ .none) (w a : Word) :
    (s.raise c w a).InvInFrame where
  memCanonical := h.memCanonical
  pcBound := h.pcBound
  liveEntries := h.liveEntries
  keypadClear := fun _ => rfl
  recordClear := fun hr => absurd rfl hr
  recordSet := fun _ => hc

/-! ### The invariant and the instruction -/

/-- An instruction that raises names its cause (R237). -/
theorem raises_ne_none {i : Instr} {s : State} {c : HaltCause} (h : raises i s = some c) : c ≠ .none := by
  rintro rfl
  cases i with
  | ret | call | ldMemVx | ldVxMem | drw => simp [raises] at h
  | _ => cases h

theorem addrWord_toNat (nnn : Addr) : (addrWord nnn).toNat = nnn.toNat := by
  have := nnn.isLt
  simp only [addrWord, BitVec.toNat_ofNat]
  omega

/-- One word on from a fetchable `pc`, or two (R25). -/
theorem skip_pc_le {pc : Word} (h : pc.toNat < 0xFFF) (c : Bool) :
    (pc + if c then 4#16 else 2#16).toNat ≤ 0x1002 := by
  cases c <;> simp only [BitVec.toNat_add, BitVec.toNat_ofNat, if_true, Bool.false_eq_true, if_false] <;> omega

/-- No target of an instruction is above 0x10FE, the largest sum of JP V0 (R27, R159). -/
theorem State.pcAfter_le {i : Instr} {s : State} (h : s.InvInFrame) (hpc : s.pc.toNat < 0xFFF)
    (hr : raises i s = none) : (s.pcAfter i).toNat ≤ 0x10FE := by
  cases i with
  | ret =>
    have hsp : s.sp.val ≠ 0 := by simpa [raises] using hr
    have := s.sp.isLt
    have hentry : (s.stack[s.sp.val - 1]).toNat ≤ 0xFFE :=
      (h.liveEntries ⟨s.sp.val - 1, by omega⟩ (Nat.sub_one_lt hsp)).2
    simp only [State.pcAfter, BitVec.toNat_add, BitVec.toNat_ofNat]
    omega
  | jp nnn | call nnn =>
    rw [State.pcAfter, addrWord_toNat]
    omega
  | jpV0 nnn =>
    have := nnn.isLt
    have := (s.reg 0).isLt
    simp only [State.pcAfter, byteWord, BitVec.toNat_add, addrWord_toNat, BitVec.toNat_ofNat]
    omega
  | _ =>
    rw [State.pcAfter_of_setsPc rfl]
    exact (skip_pc_le hpc _).trans (by decide)

/-- A dump that does not raise keeps memory canonical, and no other instruction writes it (R60, R64). -/
theorem State.written_mem_wf {i : Instr} {s : State} (h : s.mem.wf = true) (hr : raises i s = none) :
    (s.written i).mem.wf = true := by
  by_cases hi : ∃ x, i = .ldMemVx x
  · obtain ⟨x, rfl⟩ := hi
    have hfit : s.l.toNat + x.val + 1 ≤ 4096 := by simpa [raises] using hr
    exact Memory.wf_putBytes h (by rw [State.length_regsTo]; exact hfit)
  · rw [State.written_mem s (not_exists.1 hi)]
    exact h

/-- The live entries stay fetchable addresses: RET drops one, CALL adds its own address, from which it was fetched, and
no other instruction touches the stack (R31, R154). -/
theorem State.written_liveEntries {i : Instr} {s : State} (h : s.InvInFrame) (hpc : s.pc.toNat < 0xFFF)
    (heven : s.pc.toNat % 2 = 0) (hr : raises i s = none) (j : Fin 16) (hj : j.val < (s.written i).sp.val) :
    (s.written i).stack[j.val].toNat % 2 = 0 ∧ (s.written i).stack[j.val].toNat ≤ 0xFFE := by
  by_cases hret : i = .ret
  · subst hret
    exact h.liveEntries j (Nat.lt_of_lt_of_le hj (Nat.sub_le _ 1))
  by_cases hcall : ∃ nnn, i = .call nnn
  · obtain ⟨nnn, rfl⟩ := hcall
    have hsp : s.sp.val ≠ 16 := by simpa [raises] using hr
    have := s.sp.isLt
    have hj : j.val < (s.sp.val + 1) % 17 := hj
    show (s.stack.setIfInBounds s.sp.val s.pc)[j.val].toNat % 2 = 0 ∧
      (s.stack.setIfInBounds s.sp.val s.pc)[j.val].toNat ≤ 0xFFE
    rw [Vector.getElem_setIfInBounds]
    split
    · exact ⟨heven, by omega⟩
    · exact h.liveEntries j (show j.val < s.sp.val by omega)
  · obtain ⟨hsp, hst⟩ := State.written_stack s hret (not_exists.1 hcall)
    rw [hsp] at hj
    simp only [hst]
    exact h.liveEntries j hj

theorem State.written_haltRecord (s : State) (i : Instr) : SameHaltRecord s (s.written i) := by
  cases i with
  | ldVxMem x => exact ⟨State.setRegs_haltCause s _, State.setRegs_haltWord s _, State.setRegs_haltAddr s _⟩
  | _ => exact ⟨rfl, rfl, rfl⟩

/-- The effect of an instruction never halts: it leaves the run-state or arms a wait (R30, R238). -/
theorem State.written_running {s : State} (h : s.running) (i : Instr) : (s.written i).running := by
  by_cases hk : ∃ x, i = .ldVxK x
  · obtain ⟨x, rfl⟩ := hk
    exact RunState.noConfusion
  · rw [State.running, State.written_runState s (not_exists.1 hk)]
    exact h

/-- An instruction that stands at a fetchable `pc` keeps the invariant inside the frame. -/
theorem State.InvInFrame.exec {i : Instr} {s t : State} (h : s.InvInFrame) (hrun : s.running) (hpc : s.pc.toNat < 0xFFF)
    (heven : s.pc.toNat % 2 = 0) (he : exec i s = .next t) : t.InvInFrame := by
  rcases exec_cases he with ⟨c, w, a, hc, rfl⟩ | ⟨hr, rfl⟩
  · exact h.raise (raises_ne_none hc) w a
  · obtain ⟨hcause, hword, haddr⟩ := s.written_haltRecord i
    exact {
      memCanonical := State.written_mem_wf h.memCanonical hr
      pcBound := State.pcAfter_le h hpc hr
      liveEntries := State.written_liveEntries h hpc heven hr
      keypadClear := fun _ => rfl
      recordClear := fun _ => by
        show (s.written i).haltCause = _ ∧ (s.written i).haltWord = _ ∧ (s.written i).haltAddr = _
        rw [hcause, hword, haddr]
        exact h.recordClear hrun
      recordSet := fun hh => absurd hh (State.written_running hrun i) }

end Sys2Proof.Machine

namespace Sys2Proof.Proofs

open Sys2Proof Sys2Proof.Machine

/-! ### The obligations of 20_memory.md -/

/-- Settles O21: by the five cases of a frame. Opening a frame, the instruction or the exception, and closing the frame
each keep the invariant; a halted frame leaves all that it speaks of. -/
theorem everyStepKeepsTheInvariant : Obligations.EveryStepKeepsTheInvariant := by
  intro s t h hstep
  have h3 : s.atPhase3.InvInFrame := h.openFrame.resolveKeyWait
  rcases step_cases hstep with ⟨hh, rfl⟩ | ⟨-, -, -, rfl⟩ | ⟨-, -, c, hf, rfl⟩ | ⟨-, -, w, e, -, -, rfl⟩ |
    ⟨-, hn, w, i, u, hf, -, he, rfl⟩
  · exact h.congr rfl rfl ⟨rfl, rfl⟩ ⟨rfl, rfl, rfl⟩ Iff.rfl fun hr => absurd hh hr
  · exact h.openFrame.closeFrame
  · exact (h3.raise (State.fetch_error_ne_none hf) _ _).closeFrame
  · exact (h3.raise (by decide) _ _).closeFrame
  · obtain ⟨hpc, heven, -⟩ := State.fetch_eq_ok hf
    have hrun : s.atPhase3.running := by simp [State.running, hn]
    exact (h3.exec hrun hpc heven he).closeFrame

/-- Settles O8: the placed word is what the state fetches, and the table's decoder reads it as the machine's does. -/
theorem aPlacedWordIsTheNextInstruction : Obligations.APlacedWordIsTheNextInstruction := by
  intro s w i hmem hdec
  exact step_of_decoded rfl (State.fetch_placeWord hmem _) (decodeWord_of_decodeTableWord hdec)

/-- Settles O60: the dump writes `V0` and `V1` at the `pc` that it leaves. -/
theorem aStoreIsSeenByTheNextFetch : Obligations.AStoreIsSeenByTheNextFetch := by
  intro x s hmem heven hl hfit hx
  have hpc : (s.pc + 2#16).toNat = s.pc.toNat + 2 := by
    simp only [BitVec.toNat_add, BitVec.toNat_ofNat]
    omega
  have hlpc : s.l.toNat = s.pc.toNat + 2 := by rw [hl]; exact hpc
  refine ⟨_, exec_ldMemVx_of_fits x (by omega), ?_⟩
  rw [← State.getElem_regsTo s x 0 (Nat.zero_le _) 0#8, ← State.getElem_regsTo s x 1 hx 0#8]
  refine State.fetch_of_putBytes hmem ?_ ?_ ?_ ?_
  · show s.mem.putBytes s.l.toNat _ = s.mem.putBytes (s.pc + 2#16).toNat _
    rw [hlpc, hpc]
  · show (s.pc + 2#16).toNat % 2 = 0
    omega
  · rw [State.length_regsTo]
    omega
  · show (s.pc + 2#16).toNat + _ ≤ 4096
    rw [State.length_regsTo]
    omega

end Sys2Proof.Proofs

/-! SUPPORT. The decoder and the encoder are inverse to each other, format by format (R92), and the rows of the opcode
table are the words of their instructions (R95). -/

namespace Sys2Proof

/-! ### A word from its own fields, the class and the minor opcode being known -/

section
variable {w : Word} {op : Nat}

theorem packNnn_eq_of_fieldOp (hop : fieldOp w = op) : packNnn op (fieldNnn w) = w := by
  rw [← hop, packNnn_fields]

theorem packXkk_eq_of_fieldOp (hop : fieldOp w = op) : packXkk op (fieldX w) (fieldKk w) = w := by
  rw [← hop, packXkk_fields]

theorem packXkk_eq_of_minor {kk : Byte} (hop : fieldOp w = op) (hkk : (fieldKk w).toNat = kk.toNat) :
    packXkk op (fieldX w) kk = w := by
  rw [← BitVec.eq_of_toNat_eq hkk, packXkk_eq_of_fieldOp hop]

theorem packXyn_eq_of_minor {n : Count} (hop : fieldOp w = op) (hn : (fieldN w).val = n.val) :
    packXyn op (fieldX w) (fieldY w) n = w := by
  rw [← Fin.ext hn, ← hop, packXyn_fields]

end

/-! ### Decode after encode -/

/-- `SYS nnn` is well formed when `nnn` spells neither CLS nor RET (R96). -/
theorem wf_sys_iff (nnn : Addr) : (Instr.sys nnn).wf = true ↔ nnn ≠ 0x0E0#12 ∧ nnn ≠ 0x0EE#12 := by
  simp only [Instr.wf, Bool.and_eq_true, bne_iff_ne]

/-- SYS is read back from its word unless its address spells CLS or RET (R96). -/
theorem decodeClass0_packNnn {nnn : Addr} (h : (Instr.sys nnn).wf = true) :
    decodeClass0 (packNnn 0 nnn) = .ok (.sys nnn) := by
  obtain ⟨hcls, hret⟩ := (wf_sys_iff nnn).1 h
  rw [decodeClass0, if_neg fun he => hcls (Laws.RowFit.packNnn_zero nnn 0x0E0 he),
    if_neg fun he => hret (Laws.RowFit.packNnn_zero nnn 0x0EE he), (fields_packNnn (by decide) nnn).2]

/-- The decoder reads a well-formed instruction back from its word (R94). -/
theorem decodeWord_encode {i : Instr} (h : i.wf = true) : decodeWord (encode i) = .ok i := by
  cases i with
  | cls | ret => decide
  | sys nnn => simp [encode, decodeWord, fields_packNnn, decodeClass0_packNnn h]
  | jp | call | ldL | jpV0 => simp [encode, decodeWord, fields_packNnn]
  | seImm | sneImm | ldImm | addImm | rnd => simp [encode, decodeWord, fields_packXkk]
  | seReg | sneReg | drw => simp [encode, decodeWord, fields_packXyn]
  | ldReg | orReg | andReg | xorReg | addReg | sub | shr | subn | shl =>
    simp [encode, decodeWord, decodeClass8, fields_packXyn]
  | skp | sknp => simp [encode, decodeWord, decodeClassE, fields_packXkk]
  | ldVxDt | ldVxK | ldDtVx | ldStVx | addLVx | ldFVx | ldMemVx | ldVxMem =>
    simp [encode, decodeWord, decodeClassF, fields_packXkk]

/-- The front of a sequence of bytes that starts with the two bytes of a word decodes as the word (R66, R94). -/
theorem decode_of_decodeWord {w : Word} {i : Instr} (h : decodeWord w = .ok i) (rest : List Byte) :
    decode (highByte w :: lowByte w :: rest) = .ok (i, rest) := by
  simp only [decode, wordOfBytes_highByte_lowByte, h]

/-! ### Encode after decode, class by class -/

section
variable {w : Word} {i : Instr}

/-- A word of class 0 that is neither that of CLS nor that of RET is the word of a well-formed SYS (R96). -/
theorem wf_sys_fieldNnn (hop : fieldOp w = 0x0) (hcls : w ≠ 0x00E0#16) (hret : w ≠ 0x00EE#16) :
    (Instr.sys (fieldNnn w)).wf = true := by
  have hw : packNnn 0x0 (fieldNnn w) = w := packNnn_eq_of_fieldOp hop
  refine (wf_sys_iff _).2 ⟨fun hn => hcls ?_, fun hn => hret ?_⟩ <;> rw [← hw, hn] <;> decide

theorem encode_of_decodeClass0 (hop : fieldOp w = 0x0) (h : decodeClass0 w = .ok i) :
    encode i = w ∧ i.wf = true := by
  unfold decodeClass0 at h
  split at h
  · next hw =>
    cases h
    exact ⟨hw.symm, rfl⟩
  split at h
  · next hw =>
    cases h
    exact ⟨hw.symm, rfl⟩
  · next hcls hret =>
    cases h
    exact ⟨packNnn_eq_of_fieldOp hop, wf_sys_fieldNnn hop hcls hret⟩

theorem encode_of_decodeClass8 (hop : fieldOp w = 0x8) (h : decodeClass8 w = .ok i) :
    encode i = w ∧ i.wf = true := by
  unfold decodeClass8 at h
  split at h <;> cases h
  all_goals next hn => exact ⟨packXyn_eq_of_minor hop hn, rfl⟩

theorem encode_of_decodeClassE (hop : fieldOp w = 0xE) (h : decodeClassE w = .ok i) :
    encode i = w ∧ i.wf = true := by
  unfold decodeClassE at h
  split at h <;> cases h
  all_goals next hkk => exact ⟨packXkk_eq_of_minor hop hkk, rfl⟩

theorem encode_of_decodeClassF (hop : fieldOp w = 0xF) (h : decodeClassF w = .ok i) :
    encode i = w ∧ i.wf = true := by
  unfold decodeClassF at h
  split at h <;> cases h
  all_goals next hkk => exact ⟨packXkk_eq_of_minor hop hkk, rfl⟩

/-- The word of a decoded instruction is the word it was decoded from (R94, R98). -/
theorem encode_of_decodeWord (h : decodeWord w = .ok i) : encode i = w ∧ i.wf = true := by
  unfold decodeWord at h
  split at h
  case h_1 hop => exact encode_of_decodeClass0 hop h
  case h_9 hop => exact encode_of_decodeClass8 hop h
  case h_15 hop => exact encode_of_decodeClassE hop h
  case h_16 hop => exact encode_of_decodeClassF hop h
  case h_6 hop | h_10 hop =>
    split at h <;> cases h
    next hn => exact ⟨packXyn_eq_of_minor hop hn, rfl⟩
  case h_2 hop | h_3 hop | h_11 hop | h_12 hop =>
    cases h
    exact ⟨packNnn_eq_of_fieldOp hop, rfl⟩
  case h_4 hop | h_5 hop | h_7 hop | h_8 hop | h_13 hop =>
    cases h
    exact ⟨packXkk_eq_of_fieldOp hop, rfl⟩
  case h_14 hop =>
    cases h
    exact ⟨packXyn_eq_of_minor hop rfl, rfl⟩
  case h_17 => cases h

end

/-! ### The rejected words, class by class -/

theorem fieldOp_lt (w : Word) : fieldOp w < 0x10 := (w.extractLsb' 12 4).isLt

theorem decodeClass0_ne_error (w : Word) (e : Reject) : decodeClass0 w ≠ .error e := by
  unfold decodeClass0
  split
  · simp
  · split <;> simp

theorem decodeClass8_eq_error_iff (w : Word) : decodeClass8 w = .error .unrecognized ↔
    (fieldN w).val ∈ [0x8, 0x9, 0xA, 0xB, 0xC, 0xD, 0xF] := by
  have hlt := (fieldN w).isLt
  unfold decodeClass8
  split
  case h_10 =>
    simp only [imp_false] at *
    simp only [List.mem_cons, List.not_mem_nil, or_false, true_iff]
    omega
  all_goals next hn => simp [hn]

theorem decodeClassE_eq_error_iff (w : Word) : decodeClassE w = .error .unrecognized ↔
    (fieldKk w).toNat ∉ [0x9E, 0xA1] := by
  unfold decodeClassE
  split
  case h_3 h9E hA1 => simpa using ⟨h9E, hA1⟩
  all_goals next hkk => simp [hkk]

theorem decodeClassF_eq_error_iff (w : Word) : decodeClassF w = .error .unrecognized ↔
    (fieldKk w).toNat ∉ [0x07, 0x0A, 0x15, 0x18, 0x1E, 0x29, 0x55, 0x65] := by
  unfold decodeClassF
  split
  case h_9 h07 h0A h15 h18 h1E h29 h55 h65 => simpa using ⟨h07, h0A, h15, h18, h1E, h29, h55, h65⟩
  all_goals next hkk => simp [hkk]

/-- The table of unrecognized encodings in the terms of the fields (R97). -/
theorem decodeWord_eq_error_iff (w : Word) : decodeWord w = .error .unrecognized ↔
    (fieldOp w = 0x5 ∧ (fieldN w).val ≠ 0) ∨
    (fieldOp w = 0x8 ∧ (fieldN w).val ∈ [0x8, 0x9, 0xA, 0xB, 0xC, 0xD, 0xF]) ∨
    (fieldOp w = 0x9 ∧ (fieldN w).val ≠ 0) ∨
    (fieldOp w = 0xE ∧ (fieldKk w).toNat ∉ [0x9E, 0xA1]) ∨
    (fieldOp w = 0xF ∧ (fieldKk w).toNat ∉ [0x07, 0x0A, 0x15, 0x18, 0x1E, 0x29, 0x55, 0x65]) := by
  have hlt := fieldOp_lt w
  unfold decodeWord
  split
  case h_1 hop => simp [hop, decodeClass0_ne_error]
  case h_9 hop => simp only [hop, decodeClass8_eq_error_iff]; simp
  case h_15 hop => simp only [hop, decodeClassE_eq_error_iff]; simp
  case h_16 hop => simp only [hop, decodeClassF_eq_error_iff]; simp
  case h_17 =>
    simp only [imp_false] at *
    omega
  all_goals next hop => simp [hop]

/-! ### The words that fit a row -/

section
variable {w mask pattern : Word} {exclude : List Word} (h : OpcodeRow.fits ⟨mask, pattern, exclude⟩ w = true)
include h

theorem and_mask_of_fits : w &&& mask = pattern := by
  simp only [OpcodeRow.fits, Bool.and_eq_true, beq_iff_eq] at h
  exact h.1

theorem eq_pattern_of_fits (hmask : mask = BitVec.allOnes 16) : w = pattern := by
  rw [← and_mask_of_fits h, hmask, BitVec.and_allOnes]

/-- A mask that covers a field fixes the field to that of the pattern. -/
theorem extractLsb'_of_fits {start len : Nat} (hmask : mask.extractLsb' start len = BitVec.allOnes len) :
    w.extractLsb' start len = pattern.extractLsb' start len := by
  rw [← and_mask_of_fits h, BitVec.extractLsb'_and, hmask, BitVec.and_allOnes]

theorem fieldOp_of_fits (hmask : mask.extractLsb' 12 4 = BitVec.allOnes 4) : fieldOp w = fieldOp pattern :=
  congrArg BitVec.toNat (extractLsb'_of_fits h hmask)

theorem fieldN_of_fits (hmask : mask.extractLsb' 0 4 = BitVec.allOnes 4) : fieldN w = fieldN pattern :=
  Fin.ext (congrArg BitVec.toNat (extractLsb'_of_fits h hmask))

theorem fieldKk_of_fits (hmask : mask.extractLsb' 0 8 = BitVec.allOnes 8) : fieldKk w = fieldKk pattern :=
  extractLsb'_of_fits h hmask

end

/-! What a word is packed from when it fits a row, by the row's mask: the class alone, the class and `n`, the class and
`kk`. -/

section
variable {w pattern : Word} {exclude : List Word} {op : Nat}

section
variable (h : OpcodeRow.fits ⟨0xF000, pattern, exclude⟩ w = true) (hop : fieldOp pattern = op)
include h hop

theorem packNnn_of_fits : packNnn op (fieldNnn w) = w :=
  packNnn_eq_of_fieldOp ((fieldOp_of_fits h (by decide)).trans hop)

theorem packXkk_of_fits : packXkk op (fieldX w) (fieldKk w) = w :=
  packXkk_eq_of_fieldOp ((fieldOp_of_fits h (by decide)).trans hop)

theorem packXyn_of_fits : packXyn op (fieldX w) (fieldY w) (fieldN w) = w :=
  packXyn_eq_of_minor ((fieldOp_of_fits h (by decide)).trans hop) rfl

end

theorem packXyn_of_fits_minor {n : Count} (h : OpcodeRow.fits ⟨0xF00F, pattern, exclude⟩ w = true)
    (hpattern : fieldOp pattern = op ∧ fieldN pattern = n) : packXyn op (fieldX w) (fieldY w) n = w := by
  obtain ⟨hop, hn⟩ := hpattern
  rw [← fieldOp_of_fits h (by decide)] at hop
  rw [← fieldN_of_fits h (by decide)] at hn
  exact packXyn_eq_of_minor hop (congrArg Fin.val hn)

theorem packXkk_of_fits_minor {kk : Byte} (h : OpcodeRow.fits ⟨0xF0FF, pattern, exclude⟩ w = true)
    (hpattern : fieldOp pattern = op ∧ fieldKk pattern = kk) : packXkk op (fieldX w) kk = w := by
  obtain ⟨hop, hkk⟩ := hpattern
  rw [← fieldOp_of_fits h (by decide)] at hop
  rw [← fieldKk_of_fits h (by decide)] at hkk
  exact packXkk_eq_of_minor hop (congrArg BitVec.toNat hkk)

end

/-- A word that fits the row of SYS is a SYS whose address spells neither CLS nor RET (R95, R96). -/
theorem wf_sys_of_fits {w : Word} {nnn : Addr} (h : (Instr.sys nnn).row.fits w = true) :
    (Instr.sys (fieldNnn w)).wf = true := by
  have hop : fieldOp w = 0x0 := fieldOp_of_fits h (by decide)
  simp only [OpcodeRow.fits, Instr.row, Bool.and_eq_true, Bool.not_eq_true', List.contains_eq_mem,
    decide_eq_false_iff_not, List.mem_cons, not_or] at h
  obtain ⟨-, hcls, hret, -⟩ := h
  exact wf_sys_fieldNnn hop hcls hret

/-- The words that fit the row of an instruction are words of well-formed instructions of that row (R95). -/
theorem exists_encode_eq_of_fits {w : Word} :
    ∀ j : Instr, j.row.fits w = true → ∃ i : Instr, i.row = j.row ∧ i.wf = true ∧ encode i = w
  | .cls, h => ⟨.cls, rfl, rfl, (eq_pattern_of_fits h (by decide)).symm⟩
  | .ret, h => ⟨.ret, rfl, rfl, (eq_pattern_of_fits h (by decide)).symm⟩
  | .sys _, h => ⟨.sys (fieldNnn w), rfl, wf_sys_of_fits h, packNnn_of_fits h (by decide)⟩
  | .jp _, h => ⟨.jp (fieldNnn w), rfl, rfl, packNnn_of_fits h (by decide)⟩
  | .call _, h => ⟨.call (fieldNnn w), rfl, rfl, packNnn_of_fits h (by decide)⟩
  | .seImm _ _, h => ⟨.seImm (fieldX w) (fieldKk w), rfl, rfl, packXkk_of_fits h (by decide)⟩
  | .sneImm _ _, h => ⟨.sneImm (fieldX w) (fieldKk w), rfl, rfl, packXkk_of_fits h (by decide)⟩
  | .seReg _ _, h => ⟨.seReg (fieldX w) (fieldY w), rfl, rfl, packXyn_of_fits_minor h (by decide)⟩
  | .ldImm _ _, h => ⟨.ldImm (fieldX w) (fieldKk w), rfl, rfl, packXkk_of_fits h (by decide)⟩
  | .addImm _ _, h => ⟨.addImm (fieldX w) (fieldKk w), rfl, rfl, packXkk_of_fits h (by decide)⟩
  | .ldReg _ _, h => ⟨.ldReg (fieldX w) (fieldY w), rfl, rfl, packXyn_of_fits_minor h (by decide)⟩
  | .orReg _ _, h => ⟨.orReg (fieldX w) (fieldY w), rfl, rfl, packXyn_of_fits_minor h (by decide)⟩
  | .andReg _ _, h => ⟨.andReg (fieldX w) (fieldY w), rfl, rfl, packXyn_of_fits_minor h (by decide)⟩
  | .xorReg _ _, h => ⟨.xorReg (fieldX w) (fieldY w), rfl, rfl, packXyn_of_fits_minor h (by decide)⟩
  | .addReg _ _, h => ⟨.addReg (fieldX w) (fieldY w), rfl, rfl, packXyn_of_fits_minor h (by decide)⟩
  | .sub _ _, h => ⟨.sub (fieldX w) (fieldY w), rfl, rfl, packXyn_of_fits_minor h (by decide)⟩
  | .shr _ _, h => ⟨.shr (fieldX w) (fieldY w), rfl, rfl, packXyn_of_fits_minor h (by decide)⟩
  | .subn _ _, h => ⟨.subn (fieldX w) (fieldY w), rfl, rfl, packXyn_of_fits_minor h (by decide)⟩
  | .shl _ _, h => ⟨.shl (fieldX w) (fieldY w), rfl, rfl, packXyn_of_fits_minor h (by decide)⟩
  | .sneReg _ _, h => ⟨.sneReg (fieldX w) (fieldY w), rfl, rfl, packXyn_of_fits_minor h (by decide)⟩
  | .ldL _, h => ⟨.ldL (fieldNnn w), rfl, rfl, packNnn_of_fits h (by decide)⟩
  | .jpV0 _, h => ⟨.jpV0 (fieldNnn w), rfl, rfl, packNnn_of_fits h (by decide)⟩
  | .rnd _ _, h => ⟨.rnd (fieldX w) (fieldKk w), rfl, rfl, packXkk_of_fits h (by decide)⟩
  | .drw _ _ _, h => ⟨.drw (fieldX w) (fieldY w) (fieldN w), rfl, rfl, packXyn_of_fits h (by decide)⟩
  | .skp _, h => ⟨.skp (fieldX w), rfl, rfl, packXkk_of_fits_minor h (by decide)⟩
  | .sknp _, h => ⟨.sknp (fieldX w), rfl, rfl, packXkk_of_fits_minor h (by decide)⟩
  | .ldVxDt _, h => ⟨.ldVxDt (fieldX w), rfl, rfl, packXkk_of_fits_minor h (by decide)⟩
  | .ldVxK _, h => ⟨.ldVxK (fieldX w), rfl, rfl, packXkk_of_fits_minor h (by decide)⟩
  | .ldDtVx _, h => ⟨.ldDtVx (fieldX w), rfl, rfl, packXkk_of_fits_minor h (by decide)⟩
  | .ldStVx _, h => ⟨.ldStVx (fieldX w), rfl, rfl, packXkk_of_fits_minor h (by decide)⟩
  | .addLVx _, h => ⟨.addLVx (fieldX w), rfl, rfl, packXkk_of_fits_minor h (by decide)⟩
  | .ldFVx _, h => ⟨.ldFVx (fieldX w), rfl, rfl, packXkk_of_fits_minor h (by decide)⟩
  | .ldMemVx _, h => ⟨.ldMemVx (fieldX w), rfl, rfl, packXkk_of_fits_minor h (by decide)⟩
  | .ldVxMem _, h => ⟨.ldVxMem (fieldX w), rfl, rfl, packXkk_of_fits_minor h (by decide)⟩

/-- The word of a well-formed instruction fits the row of the instruction (R95). -/
theorem row_fits_encode : ∀ i : Instr, Laws.RowFit.Statement i
  | .cls => Laws.RowFit.cls
  | .ret => Laws.RowFit.ret
  | .sys nnn => Laws.RowFit.sys nnn
  | .jp nnn => Laws.RowFit.jp nnn
  | .call nnn => Laws.RowFit.call nnn
  | .seImm x kk => Laws.RowFit.seImm x kk
  | .sneImm x kk => Laws.RowFit.sneImm x kk
  | .seReg x y => Laws.RowFit.seReg x y
  | .ldImm x kk => Laws.RowFit.ldImm x kk
  | .addImm x kk => Laws.RowFit.addImm x kk
  | .ldReg x y => Laws.RowFit.ldReg x y
  | .orReg x y => Laws.RowFit.orReg x y
  | .andReg x y => Laws.RowFit.andReg x y
  | .xorReg x y => Laws.RowFit.xorReg x y
  | .addReg x y => Laws.RowFit.addReg x y
  | .sub x y => Laws.RowFit.sub x y
  | .shr x y => Laws.RowFit.shr x y
  | .subn x y => Laws.RowFit.subn x y
  | .shl x y => Laws.RowFit.shl x y
  | .sneReg x y => Laws.RowFit.sneReg x y
  | .ldL nnn => Laws.RowFit.ldL nnn
  | .jpV0 nnn => Laws.RowFit.jpV0 nnn
  | .rnd x kk => Laws.RowFit.rnd x kk
  | .drw x y n => Laws.RowFit.drw x y n
  | .skp x => Laws.RowFit.skp x
  | .sknp x => Laws.RowFit.sknp x
  | .ldVxDt x => Laws.RowFit.ldVxDt x
  | .ldVxK x => Laws.RowFit.ldVxK x
  | .ldDtVx x => Laws.RowFit.ldDtVx x
  | .ldStVx x => Laws.RowFit.ldStVx x
  | .addLVx x => Laws.RowFit.addLVx x
  | .ldFVx x => Laws.RowFit.ldFVx x
  | .ldMemVx x => Laws.RowFit.ldMemVx x
  | .ldVxMem x => Laws.RowFit.ldVxMem x

end Sys2Proof

namespace Sys2Proof.Proofs

open Sys2Proof

/-! ### The obligations of 30_encoding.md -/

/-- Settles O2: the two bytes make up the word again, and the decoder reads each format back from its packed fields. -/
theorem decodingAnEncodedInstructionGivesItBack : Obligations.DecodingAnEncodedInstructionGivesItBack := by
  intro i rest hwf
  exact decode_of_decodeWord (decodeWord_encode hwf) rest

/-- Settles O3: class by class, a word is packed from the fields that the decoder reads. -/
theorem encodingADecodedWordGivesItBack : Obligations.EncodingADecodedWordGivesItBack :=
  fun _ _ => encode_of_decodeWord

/-- Settles O4: the rejections class by class, with the fields read as numbers. -/
theorem unrecognizedWordsAreThoseOfTheTable : Obligations.UnrecognizedWordsAreThoseOfTheTable := by
  intro w
  rw [decodeWord_eq_error_iff, fieldOp_eq, fieldN_val, fieldKk_toNat]

/-- Settles O5: a row's words are those of its well-formed instructions, which the decoder and the encoder exchange. -/
theorem theDecoderFollowsTheRowsOfTheOpcodeTable : Obligations.TheDecoderFollowsTheRowsOfTheOpcodeTable := by
  constructor
  · intro w i hd
    obtain ⟨rfl, hwf⟩ := encode_of_decodeWord hd
    exact row_fits_encode i hwf
  · intro w j hfits
    obtain ⟨i, hrow, hwf, rfl⟩ := exists_encode_eq_of_fits j hfits
    exact ⟨i, decodeWord_encode hwf, hrow⟩

end Sys2Proof.Proofs

/-! SUPPORT. The phases of a frame around the instruction, store by store; the frames that end in the halt entry; that
every phase has a next state; and what the inputs of a frame can reach. -/

namespace Sys2Proof.Machine

/-! ### Opening and closing a frame -/

/-- Opening a frame leaves the program's view of the machine (R121, R123). -/
theorem State.openFrame_sameMachine (s : State) : SameMachine s s.openFrame :=
  ⟨fun r _ => s.reg_openFrame r, fun a => by rw [s.openFrame_mem], fun r c => by rw [s.openFrame_disp], s.openFrame_l,
    s.openFrame_pc, ⟨s.openFrame_dt, s.openFrame_st⟩, s.openFrame_sp, s.openFrame_stack⟩

/-- The keypad of an opened frame is the sample of the frame's keys (R123). -/
theorem State.openFrame_keypad_getElem (s : State) (k : Key) :
    s.openFrame.keypad[k.val] = s.currentInput.keys.getLsbD k.val := by
  simp only [State.openFrame_keypad, keypadOf_getElem]

/-- Resolving a key wait touches neither timer (R124). -/
theorem State.atPhase3_sameTimers (s : State) : SameTimers s s.atPhase3 := by
  rcases State.resolveKeyWait_cases s.openFrame with ⟨h, -⟩ | ⟨t, k, -, -, h⟩ <;> simp [SameTimers, State.atPhase3, h]

/-- At phase 3 the frame has reported nothing yet (R121). -/
theorem State.atPhase3_out (s : State) : s.atPhase3.out = Outputs.quiet := by
  rcases State.resolveKeyWait_cases s.openFrame with ⟨h, -⟩ | ⟨t, k, -, -, h⟩ <;> simp [State.atPhase3, h]

/-- Closing a frame writes the timers, the beep and the keypad, and uses up the inputs (R130, R131). -/
theorem State.closeFrame_eq (s : State) : ∃ dt st beep keypad, s.closeFrame =
    { s with dt := dt, st := st, out := { s.out with beep := beep }, keypad := keypad, inputs := s.inputs.tail,
             frame := s.frame + 1 } := by
  by_cases h : s.runState = .halted
  · exact ⟨s.dt, s.st, s.out.beep, s.keypad, State.closeFrame_of_halted h⟩
  · exact ⟨tick s.dt, tick s.st, s.st != 0#8, noKeys, State.closeFrame_of_running h⟩

theorem State.closeFrame_displayClear (s : State) : s.closeFrame.out.displayClear = s.out.displayClear := by
  obtain ⟨dt, st, beep, keypad, h⟩ := s.closeFrame_eq
  rw [h]

theorem State.closeFrame_transitions (s : State) : s.closeFrame.out.transitions = s.out.transitions := by
  obtain ⟨dt, st, beep, keypad, h⟩ := s.closeFrame_eq
  rw [h]

/-- Taking an exception closes the frame without a tick (R129). -/
@[simp] theorem State.closeFrame_raise (s : State) (c : HaltCause) (w a : Word) :
    (s.raise c w a).closeFrame = (s.raise c w a).nextInput :=
  State.closeFrame_of_halted rfl

theorem State.closeFrame_out_of_halted {s : State} (h : s.runState = .halted) : s.closeFrame.out = s.out := by
  rw [State.closeFrame_of_halted h, State.nextInput_out]

/-- The beep of a sound timer is whether its value is nonzero (R130). -/
theorem bne_zero_eq_decide_toNat (b : Byte) : (b != 0#8) = decide (b.toNat ≠ 0) := by
  rw [Bool.eq_iff_iff, bne_iff_ne, decide_eq_true_iff, ne_eq, ne_eq, ← BitVec.toNat_inj]
  rfl

section
variable {s : State} (h : s.running)
include h

/-- A frame that did not halt counts both timers down (R130). -/
theorem State.closeFrame_dt_toNat : s.closeFrame.dt.toNat = s.dt.toNat - 1 := by
  rw [State.closeFrame_of_running h]
  exact tick_toNat s.dt

theorem State.closeFrame_st_toNat : s.closeFrame.st.toNat = s.st.toNat - 1 := by
  rw [State.closeFrame_of_running h]
  exact tick_toNat s.st

theorem State.closeFrame_beep : s.closeFrame.out.beep = decide (s.st.toNat ≠ 0) := by
  rw [State.closeFrame_of_running h]
  exact bne_zero_eq_decide_toNat s.st

end

/-! ### A frame that resolves a key wait -/

/-- Opening a frame and ending a wait commute: the inputs do not depend on the register and the run-state. -/
theorem State.openFrame_resolved (s : State) (r : Reg) (b : Byte) :
    ((s.setReg r b).setRunState .normal).openFrame = (s.openFrame.setReg r b).setRunState .normal := rfl

/-- A wait with a pressed key is resolved with the lowest one, in the frame that samples it (R124). -/
theorem State.atPhase3_of_key {s : State} {r : Reg} {k : Key} (hw : s.runState = .waitingForKey r)
    (hk : s.currentInput.keys.getLsbD k.val = true)
    (hlow : ∀ j : Key, j < k → s.currentInput.keys.getLsbD j.val = false) :
    s.atPhase3 = (s.openFrame.setReg r (BitVec.ofNat 8 k.val)).setRunState .normal := by
  have hkey : lowestKey s.openFrame.keypad = some k :=
    lowestKey_eq_some ((s.openFrame_keypad_getElem k).trans hk) fun j hj =>
      (s.openFrame_keypad_getElem j).trans (hlow j hj)
  simp only [State.atPhase3, State.resolveKeyWait, State.openFrame_runState, hw, hkey]

/-! ### A frame that halts -/

/-- A halt entry from the opened frame, closed without a tick, is a frame that raises (R129, R238). -/
theorem haltFrame_raise (s : State) (c : HaltCause) (w a : Word) :
    HaltFrame s c w a (s.openFrame.raise c w a).closeFrame := by
  rw [State.closeFrame_raise]
  have hsame := s.openFrame_sameMachine
  have hkeys := s.openFrame_keypad_getElem
  have hout := s.openFrame_out
  generalize s.openFrame = u at hsame hkeys hout ⊢
  exact ⟨rfl, rfl, rfl, rfl, hsame, hkeys, hout⟩

/-- A frame that raises is one with the record that it leaves. -/
theorem HaltFrame.record {s t : State} {c : HaltCause} {w a : Word} (h : HaltFrame s c w a t) :
    HaltFrame s t.haltCause t.haltWord t.haltAddr t := by
  obtain ⟨hhalt, rfl, rfl, rfl, hrest⟩ := h
  exact ⟨hhalt, rfl, rfl, rfl, hrest⟩

/-- A frame that starts in `Normal` runs phase 3 on the opened frame (R121). -/
theorem step_of_runState_normal {s : State} (hn : s.runState = .normal) :
    step s = closeOutcome (runInstruction s.openFrame) := by
  have hrun : s.running := by simp [State.running, hn]
  have h3 := State.atPhase3_of_normal hn
  rw [step_of_normal hrun (by rw [h3, State.openFrame_runState, hn]), h3]

/-- A frame whose fetch fails halts with the cause, the word 0 and `pc` (R125). -/
theorem step_of_fetch_error {s : State} {c : HaltCause} (hn : s.runState = .normal) (hf : s.fetch = .error c) :
    step s = .next (s.openFrame.raise c 0x0000#16 s.pc).closeFrame := by
  have hopen : s.openFrame.fetch = .error c := (State.fetch_congr s.openFrame_pc s.openFrame_mem).trans hf
  rw [step_of_runState_normal hn, runInstruction, hopen, ← s.openFrame_pc]
  rfl

/-- A frame whose word is unrecognized halts with the word and `pc` (R126). -/
theorem step_of_decode_error {s : State} {w : Word} {e : Reject} (hn : s.runState = .normal) (hf : s.fetch = .ok w)
    (hd : decodeWord w = .error e) : step s = .next (s.openFrame.raise .unrecognizedOpcode w s.pc).closeFrame := by
  have hopen : s.openFrame.fetch = .ok w := (State.fetch_congr s.openFrame_pc s.openFrame_mem).trans hf
  rw [step_of_runState_normal hn, runInstruction, hopen, ← s.openFrame_pc]
  simp only [hd, closeOutcome]

/-- A running machine halts in a frame only by the halt entry: at the fetch, at the decode, or where its instruction
raises (R129, R238). -/
theorem eq_closeFrame_raise_of_step_halts {s t : State} (hs : s.running) (h : step s = .next t)
    (ht : t.runState = .halted) : ∃ c w a, t = (s.atPhase3.raise c w a).closeFrame := by
  rcases step_cases h with ⟨hh, -⟩ | ⟨-, -, -, rfl⟩ | ⟨-, -, c, -, rfl⟩ | ⟨-, -, w, e, -, -, rfl⟩ |
    ⟨-, hn, w, i, u, -, -, he, rfl⟩
  · exact absurd hh hs
  · rw [State.closeFrame_runState, State.openFrame_runState] at ht
    exact absurd ht hs
  · exact ⟨_, _, _, rfl⟩
  · exact ⟨_, _, _, rfl⟩
  · rcases exec_cases he with ⟨c, w, a, -, rfl⟩ | ⟨-, rfl⟩
    · exact ⟨_, _, _, rfl⟩
    · rw [State.closeFrame_runState] at ht
      have hrun : s.atPhase3.running := by simp [State.running, hn]
      exact absurd ht (State.written_running hrun i)

/-! ### Every phase has a next state -/

/-- Every instruction has a next state: its exception or its effect (R127, R238). -/
theorem exec_total (i : Instr) (s : State) : ∃ t, exec i s = .next t := by
  cases h : raises i s with
  | none => exact ⟨_, exec_of_raises_none h⟩
  | some c => exact ⟨_, exec_of_raises h⟩

theorem runInstruction_total (s : State) : ∃ t, runInstruction s = .next t := by
  unfold runInstruction
  split
  · exact ⟨_, rfl⟩
  · split
    · exact ⟨_, rfl⟩
    · exact exec_total _ s

theorem runPhases_total (s : State) : ∃ t, runPhases s = .next t := by
  obtain ⟨t, ht⟩ := runInstruction_total s
  unfold runPhases
  split
  · exact ⟨_, by rw [ht]⟩
  · exact ⟨_, rfl⟩
  · exact ⟨_, rfl⟩

/-! ### What an instruction reports -/

section
variable {i : Instr} {s t : State}

/-- What an instruction may do to the outputs: CLS reports a clear, DRW its transitions, the others nothing (R37). -/
theorem State.written_out_cases (s : State) (i : Instr) :
    (i = .cls ∧ (s.written i).out = { s.out with displayClear := true }) ∨
    (∃ x y n, i = .drw x y n ∧ (s.written i).out = { s.out with transitions := (s.drawBlit x y n).transitions }) ∨
    (i ≠ .cls ∧ (s.written i).out = s.out) := by
  by_cases hcls : i = .cls
  · subst hcls
    exact .inl ⟨rfl, rfl⟩
  by_cases hdrw : ∃ x y n, i = .drw x y n
  · obtain ⟨x, y, n, rfl⟩ := hdrw
    exact .inr (.inl ⟨x, y, n, rfl, rfl⟩)
  · have hne : ∀ x y n, i ≠ .drw x y n := fun x y n he => hdrw ⟨x, y, n, he⟩
    exact .inr (.inr ⟨hcls, (State.written_disp_out s hcls hne).2⟩)

/-- An instruction that runs with quiet outputs reports a clear exactly as CLS, transitions only as DRW, and nothing
where it halts (R132, R129). -/
theorem exec_reports (hrun : s.running) (hq : s.out = Outputs.quiet) (h : exec i s = .next t) :
    (t.out.displayClear = true ↔ i = .cls) ∧ (t.out.transitions ≠ [] → ∃ x y n, i = .drw x y n) ∧
      (t.runState = .halted → t.out = Outputs.quiet) := by
  rcases exec_cases h with ⟨c, w, a, hc, rfl⟩ | ⟨-, rfl⟩
  · have hcls : i ≠ .cls := by
      rintro rfl
      cases hc
    simp [hq, Outputs.quiet, hcls]
  · have hhalt : (s.written i).runState ≠ .halted := State.written_running hrun i
    rcases s.written_out_cases i with ⟨rfl, hout⟩ | ⟨x, y, n, rfl, hout⟩ | ⟨hcls, hout⟩
    · simp [hout, hq, Outputs.quiet, hhalt]
    · simp [hout, hq, Outputs.quiet, hhalt]
    · simp [hout, hq, Outputs.quiet, hhalt, hcls]

end

/-! ### What the inputs reach -/

/-- The state with another keypad, other inputs still to come and another frame number. -/
def State.withInputs (s : State) (keypad : Vector Bool 16) (ins : List FrameInput) (f : Nat) : State :=
  { s with keypad := keypad, inputs := ins, frame := f }

section
variable {i : Instr} {s t : State} {keypad : Vector Bool 16} {ins : List FrameInput} {f : Nat}

/-- No exception depends on an input (R237). -/
theorem raises_withInputs : raises i (s.withInputs keypad ins f) = raises i s := by
  cases i <;> rfl

/-- What an instruction writes depends on the inputs only in RND (R181). -/
theorem State.written_withInputs
    (hrnd : ∀ x kk, i = .rnd x kk → (s.withInputs keypad ins f).currentInput = s.currentInput) :
    (s.withInputs keypad ins f).written i = (s.written i).withInputs keypad ins f := by
  cases i with
  | rnd x kk =>
    rw [State.written, hrnd x kk rfl]
    rfl
  | ldVxMem x => simp only [State.written, State.withInputs, State.setRegs, State.reg]
  | _ => rfl

/-- Where an instruction leaves `pc` depends on the keypad only in SKP and SKNP (R160, R161). -/
theorem State.pcAfter_withInputs (hkeys : ∀ x, i = .skp x ∨ i = .sknp x → keypad = s.keypad) :
    (s.withInputs keypad ins f).pcAfter i = s.pcAfter i := by
  cases i with
  | skp x =>
    obtain rfl := hkeys x (.inl rfl)
    rfl
  | sknp x =>
    obtain rfl := hkeys x (.inr rfl)
    rfl
  | _ => rfl

/-- An instruction does the same whatever the inputs are, if RND sees the same random byte and SKP and SKNP the same
keypad (R127). -/
theorem exec_withInputs
    (hrnd : ∀ x kk, i = .rnd x kk → (s.withInputs keypad ins f).currentInput = s.currentInput)
    (hkeys : ∀ x, i = .skp x ∨ i = .sknp x → keypad = s.keypad) (h : exec i s = .next t) :
    exec i (s.withInputs keypad ins f) = .next (t.withInputs keypad ins f) := by
  cases hr : raises i s with
  | some c =>
    rw [exec_of_raises hr] at h
    rw [exec_of_raises (raises_withInputs.trans hr), ← Host.Outcome.next.inj h]
    rfl
  | none =>
    rw [exec_of_raises_none hr] at h
    rw [exec_of_raises_none (raises_withInputs.trans hr), State.written_withInputs hrnd, State.pcAfter_withInputs hkeys,
      ← Host.Outcome.next.inj h]
    rfl

end

end Sys2Proof.Machine

namespace Sys2Proof.Proofs

open Sys2Proof Sys2Proof.Machine

/-! ### The obligations of 40_frame_cycle.md -/

/-- Settles O14: at phase 3 the two frames are in the same state. -/
theorem aPressedKeyResolvesTheWaitBeforeTheFetch : Obligations.APressedKeyResolvesTheWaitBeforeTheFetch := by
  intro s r k hw hk hlow
  have hrun : s.running := by simp [State.running, hw]
  have h3 := State.atPhase3_of_key hw hk hlow
  rw [step_of_normal hrun (by rw [h3, State.setRunState_runState]), h3, ← State.openFrame_resolved,
    ← step_of_runState_normal (State.setRunState_runState _ _)]

/-- Settles O16: a frame that does not halt waits or runs one instruction, which leaves each timer that it does not load
to the tick. -/
theorem theTimersCountDownOnceAFrame : Obligations.TheTimersCountDownOnceAFrame := by
  intro s t h hs ht
  rcases step_cases h with ⟨hh, -⟩ | ⟨-, -, -, rfl⟩ | ⟨-, -, c, -, rfl⟩ | ⟨-, -, w, e, -, -, rfl⟩ |
    ⟨-, hn, w, i, u, hf, hd, he, rfl⟩
  · exact absurd hh hs
  · have hrun : s.openFrame.running := by rwa [State.running, State.openFrame_runState]
    rw [State.closeFrame_dt_toNat hrun, State.closeFrame_st_toNat hrun, State.closeFrame_beep hrun, s.openFrame_dt,
      s.openFrame_st]
    exact ⟨fun _ => rfl, fun _ => ⟨rfl, rfl⟩⟩
  · exact absurd rfl ht
  · exact absurd rfl ht
  · have hrun : u.running := by rwa [State.running, State.closeFrame_runState] at ht
    obtain ⟨-, -, -, -, hdt, hst, -⟩ := eachStoreIsWrittenOnlyByItsInstructions i s.atPhase3 u he
    obtain ⟨hdt3, hst3⟩ := s.atPhase3_sameTimers
    simp only [State.executed_of_decoded hs hn hf hd, ne_eq, Option.some.injEq]
    rw [State.closeFrame_dt_toNat hrun, State.closeFrame_st_toNat hrun, State.closeFrame_beep hrun, ← hdt3, ← hst3]
    exact ⟨fun hne => by rw [hdt hne], fun hne => by rw [hst hne]; exact ⟨rfl, rfl⟩⟩

/-- Settles O18: a frame that runs no instruction closes quiet outputs, and one that runs an instruction closes what the
instruction reports. -/
theorem theOutputsReportTheFramesInstruction : Obligations.TheOutputsReportTheFramesInstruction := by
  intro s t h
  have hq := s.atPhase3_out
  rcases step_cases h with ⟨hh, rfl⟩ | ⟨hs, ⟨r, hr⟩, hp, rfl⟩ | ⟨-, -, c, hf, rfl⟩ | ⟨-, -, w, e, hf, hd, rfl⟩ |
    ⟨hs, hn, w, i, u, hf, hd, he, rfl⟩
  · simp [State.executed, hh, Outputs.quiet]
  · simp [State.executed, hp, hr, State.closeFrame_displayClear, State.closeFrame_transitions, Outputs.quiet]
  · simp [State.executed, hf, hq, Outputs.quiet]
  · simp [State.executed, hf, hd, hq, Outputs.quiet]
  · have hrun : s.atPhase3.running := by simp [State.running, hn]
    obtain ⟨hclear, htrans, hhalt⟩ := exec_reports hrun hq he
    rw [State.closeFrame_displayClear, State.closeFrame_transitions, State.closeFrame_runState,
      State.executed_of_decoded hs hn hf hd]
    simp only [Option.some.injEq]
    exact ⟨hclear, htrans, fun hh => (State.closeFrame_out_of_halted hh).trans (hhalt hh)⟩

/-- Settles O20: a halted frame is closed at once, and any other runs its phases, each of which has a next state. -/
theorem everyStateHasANextState : Obligations.EveryStateHasANextState := by
  intro s
  by_cases h : s.runState = .halted
  · exact ⟨_, step_of_halted h⟩
  · rw [step_eq_runPhases h]
    exact runPhases_total s.atPhase3

/-- Settles O24: a frame halts only by the halt entry, and from `Normal` that is one of the opened frame. -/
theorem aFrameThatHaltsHasNoOtherEffect : Obligations.AFrameThatHaltsHasNoOtherEffect := by
  intro s t hn h ht
  have hrun : s.running := by simp [State.running, hn]
  obtain ⟨c, w, a, rfl⟩ := eq_closeFrame_raise_of_step_halts hrun h ht
  rw [State.atPhase3_of_normal hn]
  exact (haltFrame_raise s c w a).record

/-- Settles O30: an instruction leaves the inputs that are not varied as they are, and the varied ones reach the named
instructions only. -/
theorem inputsReachOnlyTheirInstructions : Obligations.InputsReachOnlyTheirInstructions := by
  intro i s t h
  obtain ⟨hkeypad, hins, hframe⟩ := exec_sameInputs h
  refine ⟨fun hrnd ins f => ?_, fun hskp hsknp keypad => ?_⟩
  · refine (exec_withInputs (fun x kk hi => absurd hi (hrnd x kk)) (fun _ _ => rfl) h).trans ?_
    rw [State.withInputs, ← hkeypad]
  · refine (exec_withInputs (keypad := keypad) (ins := s.inputs) (f := s.frame) (fun _ _ _ => rfl)
      (fun x hi => hi.elim (absurd · (hskp x)) (absurd · (hsknp x))) h).trans ?_
    rw [State.withInputs, ← hins, ← hframe]

/-- Settles O6: the two bytes decode as the fetched word does, and opening a frame writes outputs and keypad only. -/
theorem aStepRunsTheDecodedInstruction : Obligations.AStepRunsTheDecodedInstruction := by
  intro s i hn hpc heven hd
  exact ⟨step_of_decoded hn (State.fetch_ok hpc heven) ((decode_two_bytes _ _ i).1 hd), s.openFrame_sameMachine,
    ⟨s.openFrame_runState, s.openFrame_haltCause, s.openFrame_haltWord, s.openFrame_haltAddr⟩, s.openFrame_out,
    s.openFrame_inputs, s.openFrame_frame, s.openFrame_keypad_getElem⟩

/-- Settles O7: the tick and the cleared keypad of a running machine, the bare use of an input of a halted one, and what
neither writes. -/
theorem closingAFrameTicksAndClears : Obligations.ClosingAFrameTicksAndClears := by
  intro s
  refine ⟨fun hr => ⟨State.closeFrame_dt_toNat hr, State.closeFrame_st_toNat hr, State.closeFrame_beep hr, fun k => ?_⟩,
    fun hh => ?_, ?_⟩
  · simp only [State.closeFrame_of_running hr, State.nextInput_keypad, State.clearKeypad_keypad, noKeys_getElem]
  · rw [State.closeFrame_of_halted (not_not.1 hh)]
    exact ⟨⟨rfl, rfl⟩, rfl, rfl⟩
  · obtain ⟨dt, st, beep, keypad, h⟩ := s.closeFrame_eq
    rw [h]
    exact ⟨fun _ _ => rfl, fun _ => rfl, fun _ _ => rfl, rfl, rfl, ⟨rfl, rfl⟩, ⟨rfl, rfl, rfl, rfl⟩, rfl, rfl, rfl, rfl⟩

/-- Settles O9: the range test comes first, and each failed fetch is a halt entry of the opened frame. -/
theorem aFetchOutsideMemoryOrAtAnOddAddressHalts : Obligations.AFetchOutsideMemoryOrAtAnOddAddressHalts := by
  intro s hn
  exact ⟨fun hpc => ⟨_, step_of_fetch_error hn (State.fetch_outOfRange hpc), haltFrame_raise s _ _ _⟩,
    fun hpc hodd => ⟨_, step_of_fetch_error hn (State.fetch_misaligned hpc hodd), haltFrame_raise s _ _ _⟩⟩

/-- Settles O10: the rejected word is the fetched one, and the frame is a halt entry of the opened frame. -/
theorem anUnrecognizedWordHaltsAndIsReported : Obligations.AnUnrecognizedWordHaltsAndIsReported := by
  rintro s w hn hpc heven rfl hd
  exact ⟨_, step_of_decode_error hn (State.fetch_ok hpc heven) hd, haltFrame_raise s _ _ _⟩

/-- Settles O11: a halted frame clears the outputs and uses up an input. -/
theorem aHaltedFrameChangesNothing : Obligations.AHaltedFrameChangesNothing := by
  intro s h
  exact ⟨_, step_of_halted h, ⟨fun _ _ => rfl, fun _ => rfl, fun _ _ => rfl, rfl, rfl, ⟨rfl, rfl⟩, rfl, rfl⟩,
    ⟨rfl, rfl, rfl, rfl⟩, rfl, rfl⟩

end Sys2Proof.Proofs

/-! SUPPORT. The instructions that write nothing but `pc`, and where they leave it; the halt entry as the relation of
the statements. -/

namespace Sys2Proof.Machine

/-! ### Instructions that write nothing but `pc` -/

theorem State.onlyRegsAndPc_setPc (s : State) (a : Word) : OnlyRegsAndPc [] s (s.setPc a) :=
  ⟨fun _ _ => rfl, fun _ => rfl, fun _ _ => rfl, rfl, ⟨rfl, rfl⟩, ⟨rfl, rfl⟩, ⟨rfl, rfl, rfl, rfl⟩, ⟨rfl, rfl, rfl⟩,
    rfl⟩

/-- An instruction that neither raises nor writes a store moves `pc` alone. -/
theorem exec_moves_only_pc {i : Instr} {s : State} (hr : raises i s = none) (hw : s.written i = s) :
    ∃ t, exec i s = .next t ∧ t.pc = s.pcAfter i ∧ OnlyRegsAndPc [] s t :=
  ⟨s.setPc (s.pcAfter i), by rw [exec_of_raises_none hr, hw], rfl, s.onlyRegsAndPc_setPc _⟩

section
variable {i : Instr} {s : State} (hpc : setsPc i = false)
include hpc

theorem State.pcAfter_of_skips (h : skips i s) : s.pcAfter i = s.pc + 4 := by
  rw [State.pcAfter_of_setsPc hpc, if_pos ((s.skipTest_iff i).2 h)]
  rfl

theorem State.pcAfter_of_not_skips (h : ¬ skips i s) : s.pcAfter i = s.pc + 2 := by
  rw [State.pcAfter_of_setsPc hpc, if_neg (mt (s.skipTest_iff i).1 h)]
  rfl

theorem State.pcAfter_eq_ite {p : Prop} [Decidable p] (h : skips i s ↔ p) :
    s.pcAfter i = if p then s.pc + 4 else s.pc + 2 := by
  by_cases hp : p
  · rw [if_pos hp, State.pcAfter_of_skips hpc (h.2 hp)]
  · rw [if_neg hp, State.pcAfter_of_not_skips hpc (mt h.1 hp)]

end

/-- The sum of an address and a byte fits a word, so the jump offset by `V0` does not wrap (R159). -/
theorem addrWord_add_byteWord_toNat (nnn : Addr) (b : Byte) :
    (addrWord nnn + byteWord b).toNat = nnn.toNat + b.toNat := by
  have := nnn.isLt
  have := b.isLt
  simp only [byteWord, BitVec.toNat_add, addrWord_toNat, BitVec.toNat_ofNat]
  omega

/-! ### The halt entry -/

/-- Taking an exception is the halt entry (R238). -/
theorem haltEntry_raise (s : State) (c : HaltCause) (w a : Word) : HaltEntry s c w a (s.raise c w a) :=
  ⟨rfl, rfl, rfl, rfl, ⟨fun _ _ => rfl, fun _ => rfl, fun _ _ => rfl, rfl, rfl, ⟨rfl, rfl⟩, rfl, rfl⟩,
    ⟨rfl, rfl, rfl⟩, rfl⟩

end Sys2Proof.Machine

namespace Sys2Proof.Proofs

open Sys2Proof Sys2Proof.Machine

/-! ### The obligations of 41_control_flow.md -/

/-- Settles O32: a live entry is popped, and the empty stack is a halt entry. -/
theorem returnResumesAfterTheCall : Obligations.ReturnResumesAfterTheCall := by
  intro s
  refine ⟨fun h => ⟨_, exec_ret_of_live h, ?_⟩, fun h => ⟨_, exec_ret_of_empty h, haltEntry_raise s _ _ _⟩⟩
  exact ⟨rfl, rfl, rfl, fun _ _ => rfl, fun _ => rfl, fun _ _ => rfl, rfl, ⟨rfl, rfl⟩, ⟨rfl, rfl, rfl, rfl⟩,
    ⟨rfl, rfl, rfl⟩, rfl⟩

/-- Settles O34: a free entry receives `pc`, and the full stack is a halt entry with the word of the call. -/
theorem callPushesItsOwnAddress : Obligations.CallPushesItsOwnAddress := by
  intro nnn s
  refine ⟨fun h => ⟨_, exec_call_of_free nnn h, addrWord_toNat nnn, rfl, fun j => ?_, ?_⟩,
    fun h => ⟨_, exec_call_of_full nnn h, haltEntry_raise s _ _ _⟩⟩
  · simp only [State.setPc_stack, Vector.getElem_set, eq_comm]
  · exact ⟨fun _ _ => rfl, fun _ => rfl, fun _ _ => rfl, rfl, ⟨rfl, rfl⟩, ⟨rfl, rfl, rfl, rfl⟩, ⟨rfl, rfl, rfl⟩,
      rfl⟩

/-- Settles O35: the return pops the entry that the call pushed, since the state between has the call's stack. -/
theorem callThenReturnComesBack : Obligations.CallThenReturnComesBack := by
  rintro nnn s t u hfree hcall ⟨husp, hustack⟩
  obtain ⟨t', ht', -, htsp, htstack, -⟩ := (callPushesItsOwnAddress nnn s).1 hfree
  obtain rfl : t = t' := Host.Outcome.next.inj (hcall.symm.trans ht')
  have hsp : u.sp.val = s.sp.val + 1 := by rw [husp, htsp]
  obtain ⟨v, hret, hvsp, hvpc, hvstack, -⟩ := (returnResumesAfterTheCall u).1 (by omega)
  have hpushed : t.stack[s.sp.val] = s.pc := (htstack ⟨s.sp.val, hfree⟩).trans (if_pos rfl)
  refine ⟨v, hret, ?_, Fin.ext (by omega), fun j hj => ?_⟩
  · simp only [hvpc, hsp, Nat.add_sub_cancel, hustack, hpushed]
  · simp only [hvstack, hustack, htstack j, if_neg (Nat.ne_of_lt hj)]

/-- Settles O31: the instruction neither raises, writes nor skips. -/
theorem sysOnlyAdvances : Obligations.SysOnlyAdvances := by
  intro nnn s
  rw [← State.pcAfter_of_not_skips (i := .sys nnn) rfl not_false]
  exact exec_moves_only_pc rfl rfl

/-- Settles O33: the target is the address, which fits a word. -/
theorem jumpSetsThePc : Obligations.JumpSetsThePc := by
  intro nnn s
  obtain ⟨t, ht, hpc, hsame⟩ := exec_moves_only_pc (i := .jp nnn) (s := s) rfl rfl
  exact ⟨t, ht, by rw [hpc, State.pcAfter, addrWord_toNat], hsame⟩

/-- Settles O38: the target is the sum, which fits a word. -/
theorem jumpOffsetByV0 : Obligations.JumpOffsetByV0 := by
  intro nnn s
  obtain ⟨t, ht, hpc, hsame⟩ := exec_moves_only_pc (i := .jpV0 nnn) (s := s) rfl rfl
  exact ⟨t, ht, by rw [hpc, State.pcAfter, addrWord_add_byteWord_toNat], hsame⟩

/-- Settles O36: the two skips test equality and inequality with the literal. -/
theorem skipsOnALiteral : Obligations.SkipsOnALiteral := by
  intro x kk s
  rw [← State.pcAfter_eq_ite (i := .seImm x kk) rfl BitVec.toNat_inj.symm, ← ite_not,
    ← State.pcAfter_eq_ite (i := .sneImm x kk) rfl BitVec.toNat_inj.symm.not]
  exact ⟨exec_moves_only_pc rfl rfl, exec_moves_only_pc rfl rfl⟩

/-- Settles O37: the two skips test equality and inequality of the registers. -/
theorem skipsOnTwoRegisters : Obligations.SkipsOnTwoRegisters := by
  intro x y s
  rw [← State.pcAfter_eq_ite (i := .seReg x y) rfl BitVec.toNat_inj.symm, ← ite_not,
    ← State.pcAfter_eq_ite (i := .sneReg x y) rfl BitVec.toNat_inj.symm.not]
  exact ⟨exec_moves_only_pc rfl rfl, exec_moves_only_pc rfl rfl⟩

/-- Settles O39: SKP skips on a pressed key, SKNP on a key not pressed and on a value that names no key. -/
theorem skipsOnAKey : Obligations.SkipsOnAKey := by
  intro x s
  obtain ⟨t, ht, htpc, htsame⟩ := exec_moves_only_pc (i := .skp x) (s := s) rfl rfl
  obtain ⟨u, hu, hupc, husame⟩ := exec_moves_only_pc (i := .sknp x) (s := s) rfl rfl
  have pressed (h : skips (.skp x) s) : t.pc = s.pc + 4 ∧ u.pc = s.pc + 2 :=
    ⟨htpc.trans (State.pcAfter_of_skips rfl h), hupc.trans (State.pcAfter_of_not_skips rfl (not_not_intro h))⟩
  have notPressed (h : ¬ skips (.skp x) s) : t.pc = s.pc + 2 ∧ u.pc = s.pc + 4 :=
    ⟨htpc.trans (State.pcAfter_of_not_skips rfl h), hupc.trans (State.pcAfter_of_skips rfl h)⟩
  refine ⟨t, u, ht, hu, htsame, husame, fun h hk => pressed ⟨h, hk⟩,
    fun h hk => notPressed ?_, fun h => notPressed ?_⟩
  · rintro ⟨_, hk'⟩
    exact Bool.noConfusion (hk.symm.trans hk')
  · rintro ⟨hlt, -⟩
    omega

end Sys2Proof.Proofs

/-! SUPPORT. The instructions that write one register, or a result and then the flag, and nothing else but `pc`; the
results and flags of the arithmetic as numbers. -/

namespace Sys2Proof.Machine

/-! ### Instructions that write registers and `pc` only -/

/-- A state that differs in the register file and `pc` alone keeps every other store. -/
theorem onlyRegsAndPc_of_sameRegsBut {s : State} {dst : List Reg} {v : Vector Byte 16} {a : Word}
    (h : SameRegsBut dst s { s with v := v, pc := a }) : OnlyRegsAndPc dst s { s with v := v, pc := a } :=
  ⟨h, fun _ => rfl, fun _ _ => rfl, rfl, ⟨rfl, rfl⟩, ⟨rfl, rfl⟩, ⟨rfl, rfl, rfl, rfl⟩, ⟨rfl, rfl, rfl⟩, rfl⟩

theorem State.onlyRegsAndPc_setReg (s : State) (x : Reg) (b : Byte) : OnlyRegsAndPc [x] s (s.setReg x b).advance := by
  refine onlyRegsAndPc_of_sameRegsBut fun y hy => ?_
  exact (State.reg_setReg s x y b).trans (if_neg (List.ne_of_not_mem_cons hy))

theorem State.onlyRegsAndPc_setResultFlag (s : State) (x : Reg) (r : Byte) (c : Bool) :
    OnlyRegsAndPc [x, 15] s (s.setResultFlag x r c).advance := by
  refine onlyRegsAndPc_of_sameRegsBut fun y hy => ?_
  obtain ⟨hx, hf⟩ : y ≠ x ∧ y ≠ flagReg := by simpa using hy
  exact (State.reg_setResultFlag s x y r c).trans ((if_neg hf).trans (if_neg hx))

section
variable {i : Instr} {s : State} {x : Reg} {r : Byte}

/-- An instruction whose effect is to write one register. -/
theorem exec_writes_reg (h : exec i s = .next (s.setReg x r).advance) :
    ∃ t, exec i s = .next t ∧ t.reg x = r ∧ t.pc = s.pc + 2 ∧ OnlyRegsAndPc [x] s t :=
  ⟨_, h, by rw [State.reg_advance, State.reg_setReg, if_pos rfl], rfl, s.onlyRegsAndPc_setReg x r⟩

/-- The same, the value being known bit by bit. -/
theorem exec_writes_bits {f : Fin 8 → Bool} (h : exec i s = .next (s.setReg x r).advance)
    (hr : ∀ b : Fin 8, r.getLsbD b.val = f b) :
    ∃ t, exec i s = .next t ∧ t.pc = s.pc + 2 ∧ OnlyRegsAndPc [x] s t ∧
      ∀ b : Fin 8, (t.reg x).getLsbD b.val = f b := by
  obtain ⟨t, ht, hreg, hpc, hsame⟩ := exec_writes_reg h
  exact ⟨t, ht, hpc, hsame, hreg ▸ hr⟩

/-- An instruction whose effect is to write a result and then the flag, both known as numbers: with `x = 15` the flag is
what stays (R183). -/
theorem exec_writes_result_and_flag {c : Bool} {m n : Nat} (h : exec i s = .next (s.setResultFlag x r c).advance)
    (hr : r.toNat = m) (hc : (flagByte c).toNat = n) :
    ∃ t, exec i s = .next t ∧ (x ≠ 15 → (t.reg x).toNat = m) ∧ (t.reg 15).toNat = n ∧ t.pc = s.pc + 2 ∧
      OnlyRegsAndPc [x, 15] s t := by
  refine ⟨_, h, fun hx => ?_, ?_, rfl, s.onlyRegsAndPc_setResultFlag x r c⟩
  · rw [State.reg_advance, State.reg_setResultFlag, if_neg hx, if_pos rfl, hr]
  · rw [State.reg_advance, State.reg_setResultFlag, if_pos rfl, hc]

end

/-! ### Results and flags as numbers -/

section
variable (a b : Byte)

theorem addResult_toNat : (addResult a b).toNat = (a.toNat + b.toNat) % 256 :=
  BitVec.toNat_ofNat _ _

/-- The difference modulo 256, without a negative number (R177). -/
theorem subResult_toNat : (subResult a b).toNat = (a.toNat + 256 - b.toNat) % 256 := by
  have := b.isLt
  rw [subResult, BitVec.toNat_ofInt]
  omega

theorem shrResult_toNat : (shrResult a).toNat = a.toNat / 2 := by
  have := a.isLt
  rw [shrResult, BitVec.toNat_ofNat]
  omega

theorem shlResult_toNat : (shlResult a).toNat = a.toNat * 2 % 256 :=
  BitVec.toNat_ofNat _ _

theorem flagByte_toNat (c : Bool) : (flagByte c).toNat = c.toNat := by
  cases c <;> rfl

/-- The flag of a test is 1 exactly where the test holds (R183). -/
theorem flagByte_decide_toNat (p : Prop) [Decidable p] : (flagByte (decide p)).toNat = if p then 1 else 0 := by
  by_cases h : p <;> simp [h, flagByte]

theorem flagByte_addCarry_toNat : (flagByte (addCarry a b)).toNat = if a.toNat + b.toNat ≥ 256 then 1 else 0 :=
  flagByte_decide_toNat _

theorem flagByte_notBorrow_toNat : (flagByte (notBorrow a b)).toNat = if a.toNat ≥ b.toNat then 1 else 0 :=
  flagByte_decide_toNat _

/-- The flag of a bit is the bit's digit in the value (R178, R180). -/
theorem flagByte_getLsbD_toNat (i : Nat) : (flagByte (a.getLsbD i)).toNat = a.toNat / 2 ^ i % 2 := by
  rw [flagByte_toNat, BitVec.getLsbD, Nat.toNat_testBit]

theorem flagByte_shrFlag_toNat : (flagByte (shrFlag a)).toNat = a.toNat % 2 := by
  rw [shrFlag, flagByte_getLsbD_toNat, Nat.pow_zero, Nat.div_one]

/-- Bit 7 is the highest, so nothing stands above it in the value (R180). -/
theorem flagByte_shlFlag_toNat : (flagByte (shlFlag a)).toNat = a.toNat / 128 := by
  have := a.isLt
  rw [shlFlag, flagByte_getLsbD_toNat]
  omega

end

end Sys2Proof.Machine

namespace Sys2Proof.Proofs

open Sys2Proof Sys2Proof.Machine

/-! ### The obligations of 42_register_ops.md -/

/-- Settles O40: both effects are the write of one register. -/
theorem loadsWriteOnlyTheirRegister : Obligations.LoadsWriteOnlyTheirRegister := by
  intro x y kk s
  exact ⟨exec_writes_reg rfl, exec_writes_reg rfl⟩

/-- Settles O41: the register written is the destination alone, with the sum narrowed. -/
theorem addLiteralWrapsWithoutAFlag : Obligations.AddLiteralWrapsWithoutAFlag := by
  intro x kk s
  obtain ⟨t, ht, hreg, hpc, hsame⟩ := exec_writes_reg (i := .addImm x kk) (s := s) rfl
  exact ⟨t, ht, by rw [hreg, addResult_toNat], hpc, hsame⟩

/-- Settles O42: the operations on bytes act on each bit. -/
theorem logicCombinesBitByBit : Obligations.LogicCombinesBitByBit := by
  intro x y s
  exact ⟨exec_writes_bits rfl fun _ => BitVec.getLsbD_or, exec_writes_bits rfl fun _ => BitVec.getLsbD_and,
    exec_writes_bits rfl fun _ => BitVec.getLsbD_xor⟩

/-- Settles O43: the sum and the carry are those of the operands as numbers. -/
theorem addWritesTheSumAndTheCarry : Obligations.AddWritesTheSumAndTheCarry := by
  intro x y s
  exact exec_writes_result_and_flag rfl (addResult_toNat _ _) (flagByte_addCarry_toNat _ _)

/-- Settles O44: the two subtractions have one result and one flag, with the operands exchanged. -/
theorem subtractionsWriteTheDifferenceAndNotBorrow : Obligations.SubtractionsWriteTheDifferenceAndNotBorrow := by
  intro x y s
  exact ⟨exec_writes_result_and_flag rfl (subResult_toNat _ _) (flagByte_notBorrow_toNat _ _),
    exec_writes_result_and_flag rfl (subResult_toNat _ _) (flagByte_notBorrow_toNat _ _)⟩

/-- Settles O45: the bit shifted out is the lowest or the highest digit of the value. -/
theorem shiftsWriteTheBitShiftedOut : Obligations.ShiftsWriteTheBitShiftedOut := by
  intro x y s
  exact ⟨exec_writes_result_and_flag rfl (shrResult_toNat _) (flagByte_shrFlag_toNat _),
    exec_writes_result_and_flag rfl (shlResult_toNat _) (flagByte_shlFlag_toNat _)⟩

/-- Settles O46: a bit of the random byte stays where the mask has its bit. -/
theorem randomByteIsMasked : Obligations.RandomByteIsMasked := by
  intro x kk s
  refine exec_writes_bits rfl fun b => ?_
  rw [BitVec.getLsbD_and]
  cases kk.getLsbD b.val <;> simp

end Sys2Proof.Proofs

/-! SUPPORT. The instructions that write `L` alone, the addresses they write as numbers, and the bytes and registers that
the bulk transfers move. -/

namespace Sys2Proof.Machine

/-! ### Instructions that write `L` and `pc` only -/

/-- An instruction whose effect is to write the index register, the value being known as a number. -/
theorem exec_writes_index {i : Instr} {s : State} {a : Word} {n : Nat} (h : exec i s = .next (s.setL a).advance)
    (ha : a.toNat = n) :
    ∃ t, exec i s = .next t ∧ t.l.toNat = n ∧ t.pc = s.pc + 2 ∧ SameRegsBut [] s t ∧ SameMemory s t ∧
      SameDisplay s t ∧ SameTimers s t ∧ SameStack s t ∧ SameRunState s t ∧ SameInputs s t ∧ SameOutputs s t :=
  ⟨_, h, ha, rfl, fun _ _ => rfl, fun _ => rfl, fun _ _ => rfl, ⟨rfl, rfl⟩, ⟨rfl, rfl⟩, ⟨rfl, rfl, rfl, rfl⟩,
    ⟨rfl, rfl, rfl⟩, rfl⟩

theorem byteWord_toNat (b : Byte) : (byteWord b).toNat = b.toNat :=
  (BitVec.toNat_ofNat _ _).trans (Nat.mod_eq_of_lt (b.isLt.trans (by decide)))

/-- The address of a glyph fits a word for every byte, so nothing is reduced (R192). -/
theorem glyphAddr_toNat (k : Byte) : (glyphAddr k).toNat = k.toNat * 5 :=
  (BitVec.toNat_ofNat _ _).trans (Nat.mod_eq_of_lt (show k.toNat * 5 < 2 ^ 16 by have := k.isLt; omega))

/-! ### The bytes of a dump -/

section
variable {s : State} {x : Reg} (hmem : s.mem.wf = true) (hfit : s.l.toNat + x.val + 1 ≤ 4096)
include hmem hfit

/-- The byte of a dump at the place of a register is the register (R193). -/
theorem State.get_putBytes_regsTo {i : Reg} (hi : i ≤ x) :
    (s.mem.putBytes s.l.toNat (s.regsTo x)).get (s.l.toNat + i.val) = s.reg i := by
  rw [Memory.get_putBytes hmem (by rwa [State.length_regsTo]), if_pos (Nat.le_add_right _ _), Nat.add_sub_cancel_left,
    State.getElem_regsTo s x i hi]

/-- A dump writes no byte before or after its span (R64). -/
theorem State.get_putBytes_regsTo_of_outside {a : Nat} (ha : a < s.l.toNat ∨ s.l.toNat + x.val < a) :
    (s.mem.putBytes s.l.toNat (s.regsTo x)).get a = s.mem.get a := by
  rw [Memory.get_putBytes hmem (by rwa [State.length_regsTo])]
  rcases ha with hbefore | hafter
  · exact if_neg (Nat.not_le.2 hbefore)
  · rw [if_pos (by omega)]
    exact List.getD_eq_default _ _ (by rw [State.length_regsTo]; omega)

end

/-! ### The registers of a load -/

/-- A register among the first `n` receives its byte (R194). -/
theorem State.reg_setRegs_range_of_lt (s : State) {n : Nat} (f : Nat → Byte) {i : Reg} (hi : i.val < n) :
    (s.setRegs ((List.range n).map f)).reg i = f i.val := by
  rw [State.reg_setRegs]
  simp [hi]

/-- Writing as many registers as there are bytes changes nothing else but `pc` (R194). -/
theorem State.onlyRegsAndPc_setRegs (s : State) {bs : List Byte} {dst : List Reg}
    (h : ∀ i : Reg, i ∉ dst → bs.length ≤ i.val) : OnlyRegsAndPc dst s (s.setRegs bs).advance :=
  onlyRegsAndPc_of_sameRegsBut fun i hi => (State.reg_setRegs s bs i).trans (List.getD_eq_default _ _ (h i hi))

end Sys2Proof.Machine

namespace Sys2Proof.Proofs

open Sys2Proof Sys2Proof.Machine

/-! ### The obligations of 43_index_memory.md -/

/-- Settles O49: the write of the bytes `V0` to `Vx` at `L`, which fit. -/
theorem dumpStoresTheRegistersAtL : Obligations.DumpStoresTheRegistersAtL := by
  intro x s hmem hfit
  exact ⟨_, exec_ldMemVx_of_fits x hfit, fun _ => State.get_putBytes_regsTo hmem hfit,
    fun _ => State.get_putBytes_regsTo_of_outside hmem hfit, rfl, fun _ _ => rfl, fun _ _ => rfl, rfl, ⟨rfl, rfl⟩,
    ⟨rfl, rfl⟩, ⟨rfl, rfl, rfl, rfl⟩, ⟨rfl, rfl, rfl⟩, rfl⟩

/-- Settles O50: the write of the first `x + 1` registers, which are those of the instruction's row. -/
theorem loadReadsTheRegistersFromL : Obligations.LoadReadsTheRegistersFromL := by
  intro x s hfit
  obtain ⟨hregs, hrest⟩ := s.onlyRegsAndPc_setRegs (dst := destRegs (.ldVxMem x))
    (bs := (List.range (x.val + 1)).map fun i => s.mem.get (s.l.toNat + i)) fun i hi => by simpa [destRegs] using hi
  refine ⟨_, exec_ldVxMem_of_fits x hfit, fun i hi => ?_, fun i hi => hregs i (by simpa [destRegs] using hi), ?_, hrest⟩
  · rw [State.reg_advance, State.reg_setRegs_range_of_lt s _ (Nat.lt_succ_of_le hi)]
  · exact congrArg (· + 2#16) (State.setRegs_pc s _)

/-- Settles O51: the load reads from the same `L` the bytes that the dump stored there. -/
theorem dumpThenLoadRestoresTheRegisters : Obligations.DumpThenLoadRestoresTheRegisters := by
  intro x s t u hmem hfit hdump humem hul
  obtain ⟨t', ht', hstored, -, -, -, -, htl, -⟩ := dumpStoresTheRegistersAtL x s hmem hfit
  obtain rfl : t = t' := Host.Outcome.next.inj (hdump.symm.trans ht')
  have hl : u.l = s.l := hul.trans htl
  obtain ⟨v, hv, hloaded, -⟩ := loadReadsTheRegistersFromL x u (by rwa [hl])
  refine ⟨v, hv, fun i hi => ?_⟩
  rw [hloaded i hi, humem, hl, hstored i hi]

/-- Settles O47: the literal address fits a word, and the sum is that of words. -/
theorem indexLoadAndAdd : Obligations.IndexLoadAndAdd := by
  intro nnn x s
  have hsum : (s.l + byteWord (s.reg x)).toNat = (s.l.toNat + (s.reg x).toNat) % 65536 := by
    rw [BitVec.toNat_add, byteWord_toNat]
  exact ⟨exec_writes_index rfl (addrWord_toNat nnn), exec_writes_index rfl hsum⟩

/-- Settles O48: five times a byte fits a word. -/
theorem indexOfAGlyph : Obligations.IndexOfAGlyph := by
  intro x s
  exact exec_writes_index rfl (glyphAddr_toNat _)

end Sys2Proof.Proofs

/-! SUPPORT. What a frame known to execute an instruction does, and the instructions that write the timers alone. -/

namespace Sys2Proof.Machine

/-! ### A frame that executes a known instruction -/

/-- The converse of `executed_of_decoded`: an executed instruction was fetched and decoded in `Normal` (R133). -/
theorem State.decoded_of_executed {s : State} {i : Instr} (h : s.executed = some i) :
    s.running ∧ s.atPhase3.runState = .normal ∧ ∃ w, s.atPhase3.fetch = .ok w ∧ decodeWord w = .ok i := by
  unfold State.executed at h
  split at h
  · cases h
  · next hrun =>
    obtain ⟨hs, hn⟩ := not_or.1 hrun
    refine ⟨hs, not_not.1 hn, ?_⟩
    split at h
    · cases h
    · next w hf =>
      split at h
      · cases h
      · next j hd => exact ⟨w, hf, Option.some.inj h ▸ hd⟩

/-- The frame that executes an instruction runs it on the state at phase 3, which is not halted, and closes (R121). -/
theorem step_of_executed {s : State} {i : Instr} (h : s.executed = some i) :
    s.atPhase3.running ∧ step s = closeOutcome (exec i s.atPhase3) := by
  obtain ⟨hs, hn, w, hf, hd⟩ := State.decoded_of_executed h
  refine ⟨by simp [State.running, hn], ?_⟩
  rw [step_of_normal hs hn, runInstruction, hf]
  simp only [hd]

/-- The phases after the instruction leave `pc` and the registers (R130, R131). -/
theorem State.closeFrame_pc (s : State) : s.closeFrame.pc = s.pc := by
  obtain ⟨dt, st, beep, keypad, h⟩ := s.closeFrame_eq
  rw [h]

theorem State.reg_closeFrame (s : State) (r : Reg) : s.closeFrame.reg r = s.reg r := by
  obtain ⟨dt, st, beep, keypad, h⟩ := s.closeFrame_eq
  rw [h]
  rfl

/-! ### Instructions that write the timers and `pc` only -/

/-- A state that differs in the timers and `pc` alone keeps every other store. -/
theorem sameBut_timers_and_pc {s t : State} {dt st : Byte} {a : Word} (h : t = { s with dt := dt, st := st, pc := a }) :
    SameRegsBut [] s t ∧ SameMemory s t ∧ SameDisplay s t ∧ SameIndex s t ∧ SameStack s t ∧ SameRunState s t ∧
      SameInputs s t ∧ SameOutputs s t := by
  subst h
  exact ⟨fun _ _ => rfl, fun _ => rfl, fun _ _ => rfl, rfl, ⟨rfl, rfl⟩, ⟨rfl, rfl, rfl, rfl⟩, ⟨rfl, rfl, rfl⟩, rfl⟩

end Sys2Proof.Machine

namespace Sys2Proof.Proofs

open Sys2Proof Sys2Proof.Machine

/-! ### The obligations of 44_timer_key.md -/

/-- Settles O17: the instruction leaves the register's value in the timer, and the machine running, so closing the frame
ticks that value. -/
theorem aLoadedTimerTicksInItsOwnFrame : Obligations.ALoadedTimerTicksInItsOwnFrame := by
  intro s x
  refine ⟨fun h => ?_, fun h => ?_⟩ <;> obtain ⟨hrun, hstep⟩ := step_of_executed h
  · have hloaded : (s.atPhase3.setDt (s.atPhase3.reg x)).advance.running := hrun
    exact ⟨_, hstep, State.closeFrame_dt_toNat hloaded⟩
  · have hloaded : (s.atPhase3.setSt (s.atPhase3.reg x)).advance.running := hrun
    exact ⟨_, hstep, State.closeFrame_st_toNat hloaded, State.closeFrame_beep hloaded⟩

/-- Settles O53: the write of one register, and two writes of one timer. -/
theorem timerCopiesChangeNothingElse : Obligations.TimerCopiesChangeNothingElse := by
  intro x s
  exact ⟨exec_writes_reg rfl, ⟨_, rfl, rfl, rfl, rfl, sameBut_timers_and_pc rfl⟩,
    ⟨_, rfl, rfl, rfl, rfl, sameBut_timers_and_pc rfl⟩⟩

/-- Settles O54: the instruction writes the run-state alone, and the phases after it do not touch the wait: phase 2 of its
frame came before it. -/
theorem keyWaitIsArmedAndNotResolvedAtOnce : Obligations.KeyWaitIsArmedAndNotResolvedAtOnce := by
  refine ⟨fun x s => ?_, fun x s hn h => ?_⟩
  · exact ⟨_, rfl, rfl, rfl, fun _ _ => rfl, fun _ => rfl, fun _ _ => rfl, rfl, ⟨rfl, rfl⟩, ⟨rfl, rfl⟩, ⟨rfl, rfl, rfl⟩,
      ⟨rfl, rfl, rfl⟩, rfl⟩
  · obtain ⟨-, hstep⟩ := step_of_executed h
    rw [State.atPhase3_of_normal hn] at hstep
    refine ⟨_, hstep, State.closeFrame_runState _, ?_, fun r _ => ?_⟩
    · rw [State.closeFrame_pc, State.advance_pc, State.setRunState_pc, State.openFrame_pc]
      rfl
    · rw [State.reg_closeFrame, State.reg_advance, State.reg_setRunState, State.reg_openFrame]

end Sys2Proof.Proofs

/-! SUPPORT. The cells that a draw touches and what it reports of them, the state after a draw, and a second draw of the
same sprite at the same position. -/

namespace Sys2Proof.Machine

/-! ### The cells of a draw -/

section
variable (s : State) (x y : Reg) (n : Count)

/-- The cells that `DRW Vx, Vy, n` flips, in the order in which it flips them (R211, R212). -/
def State.drawCells : List (Fin 32 × Fin 64) :=
  spriteCells (startColumn (s.reg x)) (startRow (s.reg y)).val ((List.range n.val).map fun i => s.mem.get (s.l.toNat + i))

/-- The cells of a draw are those it covers: they are the pixels that its blit flips (R212). -/
theorem State.mem_drawCells (r : Fin 32) (c : Fin 64) : (r, c) ∈ s.drawCells x y n ↔ s.drawCovers x y n r c = true := by
  have hcells : (s.drawBlit x y n).disp.pixel r c = (s.disp.pixel r c != decide ((r, c) ∈ s.drawCells x y n)) :=
    (foldl_flipPixel (s.drawCells x y n) ⟨s.disp, false, []⟩ (nodup_spriteCells _ _ _)).1 r c
  have hcovers := (drawBlit_spec s x y n).1 r c
  rw [← Bool.bne_right_inj.1 (hcells.symm.trans hcovers), decide_eq_true_iff]

/-- The cells of a draw come row by row, and within a row by the column of the sprite (R213). -/
theorem State.drawCells_pairwise : (s.drawCells x y n).Pairwise fun a b => a.1 < b.1 ∨
    (a.1 = b.1 ∧ spriteColumn ((s.reg x).toNat % 64) a.2 < spriteColumn ((s.reg x).toNat % 64) b.2) :=
  spriteCells_pairwise (startColumn (s.reg x)) _ _

/-- A draw reports its cells in their order, each by what its pixel was (R213). -/
theorem State.drawBlit_transitions :
    (s.drawBlit x y n).transitions = (s.drawCells x y n).map (flipReport s.disp) := by
  obtain ⟨-, -, htransitions⟩ := drawBlit_spec s x y n
  exact htransitions

end

/-- A transition is reported exactly for each listed cell, with the kind of what its pixel was (R213). -/
theorem mem_map_flipReport (d : Display) (cells : List (Fin 32 × Fin 64)) (tr : Transition) :
    tr ∈ cells.map (flipReport d) ↔
      (tr.y, tr.x) ∈ cells ∧ tr.kind = if d.pixel tr.y tr.x = true then .erased else .drawn := by
  rw [List.mem_map]
  constructor
  · rintro ⟨cell, hcell, rfl⟩
    exact ⟨hcell, rfl⟩
  · rintro ⟨hcell, hkind⟩
    exact ⟨_, hcell, by rw [flipReport, ← hkind]⟩

/-! ### The state after a draw -/

/-- A flag of 1 tells that its condition held (R21). -/
theorem flagByte_eq_one_iff (c : Bool) : flagByte c = 1 ↔ c = true := by cases c <;> decide

theorem flagByte_eq_zero_or_one (c : Bool) : flagByte c = 0 ∨ flagByte c = 1 := by cases c <;> decide

/-- A blit is taken over into the display, the transitions and `VF`, and nothing else (R211). -/
theorem State.sameBut_takeBlit (s : State) (b : BlitState) :
    SameRegsBut [15] s (s.takeBlit b).advance ∧ SameMemory s (s.takeBlit b).advance ∧
      SameIndex s (s.takeBlit b).advance ∧ SameTimers s (s.takeBlit b).advance ∧ SameStack s (s.takeBlit b).advance ∧
      SameRunState s (s.takeBlit b).advance ∧ SameInputs s (s.takeBlit b).advance := by
  refine ⟨fun r hr => ?_, fun _ => rfl, rfl, ⟨rfl, rfl⟩, ⟨rfl, rfl⟩, ⟨rfl, rfl, rfl, rfl⟩, ⟨rfl, rfl, rfl⟩⟩
  rw [State.reg_advance, State.reg_takeBlit, if_neg (List.ne_of_not_mem_cons hr)]

/-! ### A second draw of the same sprite at the same position -/

/-- The kind that a report of the same pixel has once the pixel is flipped (R216). -/
def TransitionKind.opposite : TransitionKind → TransitionKind
  | .drawn => .erased
  | .erased => .drawn

theorem flipReport_of_flipped {d d' : Display} {cell : Fin 32 × Fin 64}
    (h : d'.pixel cell.1 cell.2 = !d.pixel cell.1 cell.2) :
    flipReport d' cell = { flipReport d cell with kind := (flipReport d cell).kind.opposite } := by
  unfold flipReport
  rw [h]
  cases d.pixel cell.1 cell.2 <;> rfl

section
variable {s t : State} {x y : Reg} {n : Count} (hx : t.reg x = s.reg x) (hy : t.reg y = s.reg y) (hl : t.l = s.l)
  (hmem : t.mem = s.mem)
include hx hy hl hmem

theorem State.drawCells_congr : t.drawCells x y n = s.drawCells x y n := by
  simp only [State.drawCells, hx, hy, hl, hmem]

theorem State.drawCovers_congr (r : Fin 32) (c : Fin 64) : t.drawCovers x y n r c = s.drawCovers x y n r c := by
  simp only [State.drawCovers, hx, hy, hl, hmem]

variable (hdisp : t.disp = (s.drawBlit x y n).disp)
include hdisp

/-- The second draw flips the same pixels back (R216). -/
theorem State.pixel_drawBlit_drawBlit (r : Fin 32) (c : Fin 64) :
    (t.drawBlit x y n).disp.pixel r c = s.disp.pixel r c := by
  rw [(drawBlit_spec t x y n).1, State.drawCovers_congr hx hy hl hmem, hdisp, (drawBlit_spec s x y n).1, Bool.bne_assoc,
    bne_self_eq_false, Bool.bne_false]

/-- The second draw reports the same cells, each with the other kind (R213, R216). -/
theorem State.transitions_drawBlit_drawBlit :
    (t.drawBlit x y n).transitions =
      (s.drawBlit x y n).transitions.map fun tr => { tr with kind := tr.kind.opposite } := by
  rw [State.drawBlit_transitions, State.drawBlit_transitions, State.drawCells_congr hx hy hl hmem, List.map_map]
  refine List.map_congr_left fun cell hcell => flipReport_of_flipped ?_
  have hcovered : s.drawCovers x y n cell.1 cell.2 = true := (s.mem_drawCells x y n _ _).1 hcell
  rw [hdisp, (drawBlit_spec s x y n).1, hcovered, Bool.bne_true]

end

end Sys2Proof.Machine

namespace Sys2Proof.Proofs

open Sys2Proof Sys2Proof.Machine

/-! ### The obligations of 45_display.md -/

/-- Settles O56: the blit flips the covered pixels, and the flag it leaves in `VF` notes a covered pixel that was set. -/
theorem drawFlipsExactlyTheSpritesPixels : Obligations.DrawFlipsExactlyTheSpritesPixels := by
  intro x y n s hfit
  obtain ⟨hpixel, herased, -⟩ := drawBlit_spec s x y n
  obtain ⟨hregs, hmem, hl, htimers, hstack, hrun, hinputs⟩ := s.sameBut_takeBlit (s.drawBlit x y n)
  have hflag : (s.takeBlit (s.drawBlit x y n)).advance.reg 15 = flagByte (s.drawBlit x y n).erased := by
    rw [State.reg_advance, State.reg_takeBlit, if_pos rfl]
  refine ⟨_, exec_drw_of_fits x y n hfit, hpixel, ?_, ?_, rfl, hregs, hmem, hl, htimers, hstack, hrun, hinputs, rfl, rfl⟩
  · rw [hflag]
    exact flagByte_eq_zero_or_one _
  · rw [hflag, flagByte_eq_one_iff, herased]

/-- Settles O57: the reports are those of the covered cells, in the order of the cells. -/
theorem drawReportsEachFlippedPixelOnceInOrder : Obligations.DrawReportsEachFlippedPixelOnceInOrder := by
  intro x y n s hfit
  have hreports : (s.takeBlit (s.drawBlit x y n)).advance.out.transitions = (s.drawCells x y n).map (flipReport s.disp) :=
    s.drawBlit_transitions x y n
  refine ⟨_, exec_drw_of_fits x y n hfit, fun tr => ?_, ?_⟩
  · rw [hreports, mem_map_flipReport, State.mem_drawCells]
  · rw [hreports, List.pairwise_map]
    exact s.drawCells_pairwise x y n

/-- Settles O58: the first draw leaves the sprite and `L`, so the second flips the same cells, each from the value that
the first left there. -/
theorem drawingTwiceRestoresTheDisplay : Obligations.DrawingTwiceRestoresTheDisplay := by
  intro x y n s t hfit hdraw hx hy
  obtain rfl : t = (s.takeBlit (s.drawBlit x y n)).advance :=
    Host.Outcome.next.inj (hdraw.symm.trans (exec_drw_of_fits x y n hfit))
  exact ⟨_, exec_drw_of_fits x y n hfit, State.pixel_drawBlit_drawBlit hx hy rfl rfl rfl,
    State.transitions_drawBlit_drawBlit hx hy rfl rfl rfl⟩

/-- Settles O55: the display is replaced by the clear one, and the register file is not written. -/
theorem clearUnsetsEveryPixel : Obligations.ClearUnsetsEveryPixel := by
  intro s
  exact ⟨_, rfl, Display.pixel_clear, rfl, rfl, rfl, rfl, fun _ _ => rfl, fun _ => rfl, rfl, ⟨rfl, rfl⟩, ⟨rfl, rfl⟩,
    ⟨rfl, rfl, rfl, rfl⟩, ⟨rfl, rfl, rfl⟩⟩

end Sys2Proof.Proofs

/-! SUPPORT. Many frames of a machine that has halted, and of one that waits for a key and sees none; the words that the
bulk transfers leave in the halt record, as numbers. -/

namespace Sys2Proof.Machine

/-! ### Many frames -/

/-- A run whose first frame is known goes on from the state after it. -/
theorem run_succ_of_step {s t : State} (n : Nat) (h : step s = .next t) : core.run (n + 1) s = core.run n t := by
  have hcore : core.step s = .next t := h
  simp only [Host.Core.run, hcore]

/-- Frames after a halt clear the outputs and use up inputs, and do nothing else (R122, R240). -/
theorem run_of_halted (n : Nat) {s : State} (h : s.runState = .halted) :
    ∃ out ins f, core.run n s = .next { s with out := out, inputs := ins, frame := f } := by
  induction n generalizing s with
  | zero => exact ⟨s.out, s.inputs, s.frame, rfl⟩
  | succ n ih =>
    obtain ⟨out, ins, f, hrun⟩ := ih (s := s.clearOutputs.nextInput) h
    exact ⟨out, ins, f, (run_succ_of_step n (step_of_halted h)).trans hrun⟩

/-! ### Waiting for a key that does not come -/

/-- The state after a frame that only ticks: the timers counted down, the beep given, the keypad cleared and the inputs
used up (R130, R131). -/
def State.ticked (s : State) : State :=
  { s with dt := tick s.dt, st := tick s.st, out := ⟨s.st != 0#8, false, []⟩, keypad := noKeys,
           inputs := s.inputs.tail, frame := s.frame + 1 }

theorem State.openFrame_closeFrame_of_running {s : State} (h : s.running) : s.openFrame.closeFrame = s.ticked := by
  have hrun : s.openFrame.running := by rwa [State.running, State.openFrame_runState]
  simp [State.closeFrame_of_running hrun, State.ticked, State.nextInput, State.clearKeypad, State.tickTimers,
    Outputs.quiet]

/-- A wait without a pressed key is still there at phase 3 (R124). -/
theorem State.atPhase3_of_noKey {s : State} (h : s.currentInput.keys = 0) : s.atPhase3 = s.openFrame := by
  have hkey : lowestKey s.openFrame.keypad = none := by
    rw [State.openFrame_keypad, h]
    exact lowestKey_keypadOf_zero
  rcases State.resolveKeyWait_cases s.openFrame with ⟨hsame, -⟩ | ⟨r, k, -, hk, -⟩
  · exact hsame
  · rw [hkey] at hk
    cases hk

/-- A frame that waits for a key and sees none only ticks (R248). -/
theorem step_of_waiting_of_noKey {s : State} {r : Reg} (hw : s.runState = .waitingForKey r)
    (hkeys : s.currentInput.keys = 0) : step s = .next s.ticked := by
  have hrun : s.running := by simp [State.running, hw]
  have hwait : s.atPhase3.runState = .waitingForKey r := by
    rw [State.atPhase3_of_noKey hkeys, State.openFrame_runState, hw]
  rw [(step_of_waiting hrun hwait).1, State.openFrame_closeFrame_of_running hrun]

/-- Frames without a key leave a wait as it is; each timer is counted down once a frame (R130, R248). -/
theorem run_of_waiting_of_noKeys {s : State} {r : Reg} {quiet rest : List FrameInput}
    (hw : s.runState = .waitingForKey r) (hin : s.inputs = quiet ++ rest) (hkeys : ∀ i ∈ quiet, i.keys = 0) :
    ∃ dt st out keypad f, core.run quiet.length s =
        .next { s with dt := dt, st := st, out := out, keypad := keypad, inputs := rest, frame := f } ∧
      dt.toNat = s.dt.toNat - quiet.length ∧ st.toNat = s.st.toNat - quiet.length := by
  induction quiet generalizing s with
  | nil =>
    obtain rfl : s.inputs = rest := hin
    exact ⟨s.dt, s.st, s.out, s.keypad, s.frame, rfl, rfl, rfl⟩
  | cons i quiet ih =>
    obtain ⟨hi, hquiet⟩ := List.forall_mem_cons.1 hkeys
    have hstep : step s = .next s.ticked :=
      step_of_waiting_of_noKey hw (by rwa [State.currentInput_cons hin])
    obtain ⟨dt, st, out, keypad, f, hrun, hdt, hst⟩ := ih (s := s.ticked) hw (congrArg List.tail hin) hquiet
    have hticked : s.ticked.dt.toNat = s.dt.toNat - 1 ∧ s.ticked.st.toNat = s.st.toNat - 1 :=
      ⟨tick_toNat s.dt, tick_toNat s.st⟩
    rw [List.length_cons]
    exact ⟨dt, st, out, keypad, f, (run_succ_of_step _ hstep).trans hrun, by omega, by omega⟩

/-! ### The words of the transfers -/

/-- The word of format XFN as the number of its pattern and its register (R92). -/
theorem packXkk_eq_ofNat (op : Nat) (x : Reg) (kk : Byte) :
    packXkk op x kk = BitVec.ofNat 16 (op * 0x1000 + kk.toNat + x.val * 0x100) :=
  congrArg (BitVec.ofNat 16) (Nat.add_right_comm _ _ _)

end Sys2Proof.Machine

namespace Sys2Proof.Proofs

open Sys2Proof Sys2Proof.Machine

/-! ### The obligations of 60_exceptions.md -/

/-- Settles O12: by induction on the frames, each of which writes the outputs and uses up an input. -/
theorem nothingLeavesAHaltButReset : Obligations.NothingLeavesAHaltButReset := by
  intro n s h
  obtain ⟨out, ins, f, hrun⟩ := run_of_halted n h
  exact ⟨_, hrun, ⟨fun _ _ => rfl, fun _ => rfl, fun _ _ => rfl, rfl, rfl, ⟨rfl, rfl⟩, rfl, rfl⟩, rfl, rfl, rfl, rfl⟩

/-- Settles O15: by induction on the inputs without a key, each of which is used up by a frame that only ticks. -/
theorem aKeyWaitLastsWhileNoKeyComes : Obligations.AKeyWaitLastsWhileNoKeyComes := by
  intro s r quiet rest hw hin hkeys
  obtain ⟨dt, st, out, keypad, f, hrun, hdt, hst⟩ := run_of_waiting_of_noKeys hw hin hkeys
  exact ⟨_, hrun, fun _ _ => rfl, fun _ => rfl, fun _ _ => rfl, rfl, rfl, ⟨rfl, rfl⟩, ⟨rfl, rfl, rfl, rfl⟩, rfl, hdt,
    hst⟩

/-- Settles O23: a cause to raise gives the halt entry, and no cause gives the effect, which never halts. -/
theorem anInstructionHaltsExactlyWhenItRaises : Obligations.AnInstructionHaltsExactlyWhenItRaises := by
  refine ⟨⟨rfl, rfl, rfl, rfl, rfl, rfl⟩, fun i s hrun => ⟨fun c hc => ?_, fun hnone => ?_⟩⟩
  · exact ⟨_, exec_of_raises hc, haltEntry_raise s c _ _⟩
  · exact ⟨_, exec_of_raises_none hnone, State.written_running hrun i⟩

/-- Settles O13: the frame only ticks. -/
theorem aWaitingFrameWithoutAKeyOnlyTicks : Obligations.AWaitingFrameWithoutAKeyOnlyTicks := by
  intro s r hw hkeys
  refine ⟨_, step_of_waiting_of_noKey hw hkeys, fun _ _ => rfl, fun _ => rfl, fun _ _ => rfl, rfl, rfl, ⟨rfl, rfl⟩,
    ⟨rfl, rfl, rfl, rfl⟩, tick_toNat s.dt, tick_toNat s.st, ?_, fun k => noKeys_getElem k.val k.isLt⟩
  rw [State.ticked, bne_zero_eq_decide_toNat]

/-- Settles O52: each span leaves memory, so the transfer is a halt entry with `L` and its own word. -/
theorem transfersThatLeaveMemoryHalt : Obligations.TransfersThatLeaveMemoryHalt := by
  intro x y n s
  have hword (kk : Byte) : HaltEntry s .outOfRangeAccess (BitVec.ofNat 16 (0xF000 + kk.toNat + x.val * 0x100)) s.l
      (s.raise .outOfRangeAccess (packXkk 0xF x kk) s.l) := by
    rw [packXkk_eq_ofNat]
    exact haltEntry_raise s _ _ _
  exact ⟨fun h => ⟨⟨_, exec_ldMemVx_of_leaves x h, hword 0x55#8⟩, ⟨_, exec_ldVxMem_of_leaves x h, hword 0x65#8⟩⟩,
    fun hn h => ⟨_, exec_drw_of_leaves x y n hn h, haltEntry_raise s _ _ _⟩⟩

end Sys2Proof.Proofs

/-! SUPPORT. What reset with a ROM image answers: the image in the memory of reset, or a refusal. -/

namespace Sys2Proof.Machine

/-- The reset state with the ROM image copied from the entry point upward (R45, R260). -/
def State.resetLoaded (rom : List Byte) : State :=
  { State.reset with mem := State.reset.mem.putBytes Config.progBase rom }

theorem State.resetWith_of_le {rom : List Byte} (h : rom.length ≤ Config.progMax) :
    State.resetWith rom = .next (State.resetLoaded rom) :=
  if_pos h

theorem State.resetWith_of_lt {rom : List Byte} (h : Config.progMax < rom.length) :
    State.resetWith rom = .refused .romTooLong :=
  if_neg (Nat.not_le_of_gt h)

section
variable {m : Memory} {a : Nat} {ws : List Byte} (hm : m.wf = true) (hfit : a + ws.length ≤ Config.memSize)
include hm hfit

theorem Memory.get_putBytes_inside {i : Nat} (hi : i < ws.length) : (m.putBytes a ws).get (a + i) = ws[i] := by
  rw [Memory.get_putBytes hm hfit, if_pos (Nat.le_add_right a i), Nat.add_sub_cancel_left,
    List.getD_eq_getElem _ _ hi]

theorem Memory.get_putBytes_outside {b : Nat} (hb : b < a ∨ a + ws.length ≤ b) : (m.putBytes a ws).get b = m.get b := by
  rw [Memory.get_putBytes hm hfit]
  rcases hb with hbelow | habove
  · exact if_neg (Nat.not_le_of_gt hbelow)
  · rw [if_pos (by omega), List.getD_eq_default _ _ (by omega)]

end

end Sys2Proof.Machine

namespace Sys2Proof.Proofs

open Sys2Proof Sys2Proof.Machine

/-- Settles O27: an image of at most 3584 bytes from 0x200 ends inside memory, so the laws of a sequence of bytes
written to a canonical memory give each byte. -/
theorem resetPlacesTheImageOrRefusesIt : Obligations.ResetPlacesTheImageOrRefusesIt := by
  intro rom
  refine ⟨fun hle => ?_, State.resetWith_of_lt⟩
  have hwf : State.reset.mem.wf = true := rfl
  have hfit : Config.progBase + rom.length ≤ Config.memSize := Nat.add_le_add_left hle 0x200
  exact ⟨State.resetLoaded rom, State.resetWith_of_le hle, rfl, Memory.wf_putBytes hwf hfit,
    fun _ hi => Memory.get_putBytes_inside hwf hfit hi, fun _ ha => Memory.get_putBytes_outside hwf hfit ha⟩

end Sys2Proof.Proofs

/-! SUPPORT. Fixed words against the opcode map: a word that an instruction encodes to is read back as it. -/

namespace Sys2Proof

theorem decodeWord_of_encode_eq {w : Word} {i : Instr} (hw : encode i = w) (hwf : i.wf = true) :
    decodeWord w = .ok i :=
  hw ▸ decodeWord_encode hwf

end Sys2Proof

namespace Sys2Proof.Proofs

open Sys2Proof

/-- Settles O1: the encoder gives each recognized word for its instruction, so the decoder reads the instruction back;
each rejected word stands in the row of its class, 5, 8, 9, E or F, of the table of unrecognized encodings. -/
theorem knownWordsDecodeAsTheMapSays : Obligations.KnownWordsDecodeAsTheMapSays := by
  unfold Obligations.KnownWordsDecodeAsTheMapSays
  and_intros
  iterate 18 exact decodeWord_of_encode_eq (by decide) rfl
  · exact (decodeWord_eq_error_iff 0x5AB1).2 (.inl (by decide))
  · exact (decodeWord_eq_error_iff 0x8128).2 (.inr (.inl (by decide)))
  · exact (decodeWord_eq_error_iff 0x9AB1).2 (.inr (.inr (.inl (by decide))))
  · exact (decodeWord_eq_error_iff 0xE59F).2 (.inr (.inr (.inr (.inl (by decide)))))
  · exact (decodeWord_eq_error_iff 0xF033).2 (.inr (.inr (.inr (.inr (by decide)))))

end Sys2Proof.Proofs
